-- ==== Sys2Proof/Word.lean ====
section
/-! DEFINITION. The word types of the block: the widths of spec/00_scope.md R7 and spec/10_state.md R22, R26, R42.
Nothing here computes; the arithmetic of R10 is in Machine/Operands.lean. -/

namespace Sys2Proof

/-- A sample, a packed byte or a decoded intensity: 8 bits (R22). -/
abbrev Byte := BitVec 8

/-- A width or a height: DIM_BITS = 16 bits (R7). -/
abbrev Dim := BitVec 16

/-- A quantized level: "A cell is stored in 2 bits" (R26). -/
abbrev Level := BitVec 2

/-- What the register port carries: 32 bits (R66). Also LEN_BITS = 32 (R7). -/
abbrev Word := BitVec 32

/-- A brightness or contrast factor, UQ8.8 (R48). -/
abbrev Factor := BitVec 16

/-- A command word, CMD_BITS = 8 (R7, R90). -/
abbrev CmdWord := BitVec 8

end Sys2Proof
end

