-- ==== Sys2Proof/Syntax.lean ====
section
/-! DEFINITION. The commands (spec/30_encoding.md R92), the plane names (spec/10_state.md R21) and the HOST's moves
(spec/20_memory.md R75, written as in spec/30_encoding.md R98). -/

namespace Sys2Proof

/-- The fourteen commands of R92, one constructor per row of spec/opcode_table.json. A command word carries no
operand (R90): the operands are the planes and configuration registers fixed per command. -/
inductive Instr where
  /-- NOP, 0x00 (R230) -/
  | nop
  /-- CLEAR, 0x01 (R231) -/
  | clear
  /-- NORMALIZE, 0x10 (R110) -/
  | normalize
  /-- TOGRAY, 0x20 (R130) -/
  | toGray
  /-- ADJUST, 0x30 (R136) -/
  | adjust
  /-- QUANT.THRESH, 0x41 (R152) -/
  | quantThresh
  /-- QUANT.UNIFORM, 0x42 (R154) -/
  | quantUniform
  /-- QUANT.DITHER, 0x43 (R156) -/
  | quantDither
  /-- PACK.1, 0x51 (R182) -/
  | pack1
  /-- PACK.2, 0x52 (R183) -/
  | pack2
  /-- UNPACK.1, 0x61 (R202) -/
  | unpack1
  /-- UNPACK.2, 0x62 (R203) -/
  | unpack2
  /-- DETECT, 0x70 (R208) -/
  | detect
  /-- CONVERT, 0x80 (R235) -/
  | convert
  deriving DecidableEq, Repr

/-- The seven data planes (R21). -/
inductive Plane where
  | src | nrm | pix | qnt | buf | vbuf | dec
  deriving DecidableEq, Repr

/-- The six moves of the agent HOST (R75): the register port (R66), the plane port (R67, R68) and reset (R290).
The arguments of a load are plain numbers, so that a load can break a precondition of R68 (U10). -/
inductive HostMove where
  /-- RegRead(n), `GET` -/
  | regRead (n : BitVec 8)
  /-- RegWrite(n, v), `SET`; a bare mnemonic is a write of its word to register 0x00 -/
  | regWrite (n : BitVec 8) (v : Word)
  /-- PlaneRead(p, i), `READ` -/
  | planeRead (p : Plane) (i : Nat)
  /-- PlaneLoad(p, w, h, aux, data), `LOAD` -/
  | planeLoad (p : Plane) (w h aux : Nat) (data : List Nat)
  /-- PlaneDrop(p), `DROP` -/
  | planeDrop (p : Plane)
  /-- the reset event -/
  | reset
  deriving DecidableEq, Repr

end Sys2Proof
end

