-- ==== Sys2Proof/WellFormed.lean ====
section
/-! DEFINITION. Which terms of the syntax are well formed, judged without a state: every command (R90: a command has no
operand that could be wrong), and of the HOST's moves those that meet the state-independent preconditions of
spec/20_memory.md R68. Whether a PlaneRead is allowed depends on the state (R67), so no read is refused here. -/

namespace Sys2Proof

/-- Every command is well formed: its word has no operand field (R90). -/
def Instr.wellFormed : Instr → Bool := fun _ => true

/-- The planes HOST may load (R68). -/
def Plane.loadable : Plane → Bool
  | .src | .nrm | .pix | .vbuf => true
  | .qnt | .buf | .dec => false

/-- The planes HOST may drop (R68). -/
def Plane.droppable : Plane → Bool
  | .src | .vbuf => true
  | .nrm | .pix | .qnt | .buf | .dec => false

/-- The preconditions R68 puts on the arguments of a load of plane p. -/
def Plane.loadArgsOk (p : Plane) (w h aux : Nat) (data : List Nat) : Bool :=
  data.all (fun v => decide (v ≤ 255)) &&
  match p with
  | .src => decide (w ≤ 65535 ∧ h ≤ 65535 ∧ aux ≤ 255 ∧ data.length = w * h * aux)
  | .nrm => decide (1 ≤ w ∧ w ≤ 65535 ∧ 1 ≤ h ∧ h ≤ 65535 ∧ (aux = 1 ∨ aux = 3) ∧ data.length = w * h * aux)
  | .pix => decide (1 ≤ w ∧ w ≤ 65535 ∧ 1 ≤ h ∧ h ≤ 65535 ∧ data.length = w * h)
  | .vbuf => decide (data.length ≤ 4294967295)
  | .qnt | .buf | .dec => true

/-- A move HOST may make as far as its own arguments say (R66, R68). -/
def HostMove.wellFormed : HostMove → Bool
  | .regRead _ => true
  | .regWrite _ _ => true
  | .planeRead _ _ => true
  | .planeLoad p w h aux data => p.loadable && p.loadArgsOk w h aux data
  | .planeDrop p => p.droppable
  | .reset => true

end Sys2Proof
end

