-- ==== Sys2Proof/Decode.lean ====
section
/-! DEFINITION. Decoding a command word by its fields OP and ARG (spec/30_encoding.md R90, R93), total on every word
(R96), the illegal words rejected by name (R95); and the encoder, written from the table of R92. -/

namespace Sys2Proof

/-- Why a word is no command: each is the spec's "illegal" (R95, R96), told apart by the field that makes it so. -/
inductive DecodeError where
  /-- OP is 9 to 15: no group -/
  | reservedGroup
  /-- OP is 0, 4, 5 or 6 and ARG selects nothing there (R93) -/
  | reservedSelector
  /-- OP is 1, 2, 3, 7 or 8 and ARG is not 0 (R93) -/
  | argNotZero
  deriving DecidableEq, Repr

/-- OP, bits 7:4 (R90). -/
def opField (c : CmdWord) : Nat := (c.extractLsb' 4 4).toNat

/-- ARG, bits 3:0 (R90). -/
def argField (c : CmdWord) : Nat := (c.extractLsb' 0 4).toNat

/-- A group that takes no ARG: "For OP ∈ {1, 2, 3, 7, 8}, ARG must be 0" (R93). -/
def decodePlain (i : Instr) (arg : Nat) : Except DecodeError Instr :=
  if arg = 0 then .ok i else .error .argNotZero

/-- The total decoder (R93, R95, R96). -/
def decode (c : CmdWord) : Except DecodeError Instr :=
  match opField c, argField c with
  | 0, 0 => .ok .nop
  | 0, 1 => .ok .clear
  | 0, _ => .error .reservedSelector
  | 1, a => decodePlain .normalize a
  | 2, a => decodePlain .toGray a
  | 3, a => decodePlain .adjust a
  | 4, 1 => .ok .quantThresh
  | 4, 2 => .ok .quantUniform
  | 4, 3 => .ok .quantDither
  | 4, _ => .error .reservedSelector
  | 5, 1 => .ok .pack1
  | 5, 2 => .ok .pack2
  | 5, _ => .error .reservedSelector
  | 6, 1 => .ok .unpack1
  | 6, 2 => .ok .unpack2
  | 6, _ => .error .reservedSelector
  | 7, a => decodePlain .detect a
  | 8, a => decodePlain .convert a
  | _, _ => .error .reservedGroup

/-- The word of a command: the first column of R92. -/
def encode : Instr → CmdWord
  | .nop => 0x00#8
  | .clear => 0x01#8
  | .normalize => 0x10#8
  | .toGray => 0x20#8
  | .adjust => 0x30#8
  | .quantThresh => 0x41#8
  | .quantUniform => 0x42#8
  | .quantDither => 0x43#8
  | .pack1 => 0x51#8
  | .pack2 => 0x52#8
  | .unpack1 => 0x61#8
  | .unpack2 => 0x62#8
  | .detect => 0x70#8
  | .convert => 0x80#8

/-- The command the decoder reads from a word numbered as spec/opcode_table.json numbers it. -/
def decodeTableWord (nbits w : Nat) : Option Instr :=
  (decode (BitVec.ofNat 8 (w % 2 ^ nbits))).toOption

end Sys2Proof
end

