-- ==== Sys2Proof/Config.lean ====
section
/-! DEFINITION. What is fixed for one machine and left open by the spec: the three open parameters of
spec/00_scope.md R8 (RESAMPLE, LUMA, SHORT_POLICY) and the draws of the configuration registers at a reset event (R55,
R291). Every one of them is an opaque constant with no body, so that a claim holds whatever its value is.
DESIGN CHOICE (log 4, 5, 6, 7); safe. -/

namespace Sys2Proof.Config

/-- The two values of SHORT_POLICY (R206, U3). -/
inductive ShortPolicy where
  /-- a missing byte decodes as 0x00 (the spec's default, D22) -/
  | zeroFillBytes
  /-- the pixels of missing bytes are not written and hold no value -/
  | stopEarly
  deriving DecidableEq, Repr, Inhabited

/-- Which LUMA the machine has (R8, R132): the spec's default or another one. -/
inductive LumaChoice where
  /-- the BT.601 fixed-point formula of R133 (the spec's default, D12; its general-knowledge passage G1) -/
  | bt601
  /-- any other function with the properties L1 to L3 of R132 -/
  | other
  deriving DecidableEq, Repr, Inhabited

/-- SHORT_POLICY of this machine: open (R206). -/
opaque shortPolicy : ShortPolicy

/-- LUMA of this machine: open (R132). -/
opaque lumaChoice : LumaChoice

/-- LUMA of a machine with another formula, on a pixel that is not gray (on grays property L3 fixes it). -/
opaque freeLuma : Byte → Byte → Byte → Byte

/-- What a sample of a resized image depends on (R116, P3): the input image, the size asked for, and which sample of
the result it is. -/
structure ResamplePoint where
  /-- the input image: width, height, channels, samples -/
  ow : Nat
  oh : Nat
  ch : Nat
  samples : List Byte
  /-- the size asked for -/
  sw : Nat
  sh : Nat
  /-- column, row and channel of the sample of the result -/
  x : Nat
  y : Nat
  c : Nat
  deriving DecidableEq, Repr

/-- RESAMPLE (R116): one sample of the resized image. Used only where property P4 does not fix the sample. -/
opaque freeSample : ResamplePoint → Byte

/-- What TW holds after the n-th reset event: a draw (R291). -/
opaque resetTw : Nat → Dim
/-- What TH holds after the n-th reset event: a draw (R291). -/
opaque resetTh : Nat → Dim
/-- What LEVELS holds after the n-th reset event: a draw (R291). -/
opaque resetLevels : Nat → BitVec 8
/-- What DITHER holds after the n-th reset event: a draw (R291). -/
opaque resetDither : Nat → BitVec 1
/-- What THRESH holds after the n-th reset event: a draw (R291). -/
opaque resetThresh : Nat → Byte
/-- What BRIGHT holds after the n-th reset event: a draw (R291). -/
opaque resetBright : Nat → Factor
/-- What CONTRAST holds after the n-th reset event: a draw (R291). -/
opaque resetContrast : Nat → Factor

end Sys2Proof.Config
end

