-- ==== Sys2Proof/Machine/State.lean ====
section
/-! DEFINITION. The state of the block as plain data (spec/10_state.md): the seven planes, the seven configuration
registers, the STATUS fields, VBPP and DCOUNT (R54), and beside them what the agent HOST is about to do and has been
told (log 1, 2). The plane attribute registers, the valid bits and CMD are views or ports, stored nowhere twice. -/

namespace Sys2Proof.Machine

/-- An image plane's content (R22): width, height, channel count, and w·h·ch samples in the order of R61. -/
structure Image where
  w : Dim
  h : Dim
  /-- the attribute `aux`, called `ch` for an image -/
  ch : BitVec 8
  data : List Byte
  deriving DecidableEq, Repr

/-- Plane PIX's content, a PixelGrid (R25): w·h intensities, row-major. -/
structure Grid where
  w : Dim
  h : Dim
  cells : List Byte
  deriving DecidableEq, Repr

/-- Plane QNT's content, a QuantizedGrid (R26): w·h levels, row-major. -/
structure QGrid where
  w : Dim
  h : Dim
  /-- the attribute `aux`: QLEVELS -/
  levels : BitVec 8
  cells : List Level
  deriving DecidableEq, Repr

/-- Plane BUF's content, a PackedBuffer (R27); its `len` is the number of its bytes. -/
structure PackedBuf where
  /-- width of the grid it was packed from -/
  w : Dim
  /-- height of the grid it was packed from -/
  h : Dim
  /-- the attribute `aux`: bits per pixel -/
  bpp : BitVec 8
  bytes : List Byte
  deriving DecidableEq, Repr

/-- Plane DEC's content (R29): w·h intensities; a cell may hold no value under STOP_EARLY (R206). -/
structure DecGrid where
  w : Dim
  h : Dim
  cells : List (Option Byte)
  deriving DecidableEq, Repr

/-- The plane space (R60(b)): the seven planes, each invalid (`none`, holding no value: R31) or with its content.
VBUF's content is its byte sequence alone (R28). DESIGN CHOICE (log 8); safe. -/
structure Memory where
  src : Option Image
  nrm : Option Image
  pix : Option Grid
  qnt : Option QGrid
  buf : Option PackedBuf
  vbuf : Option (List Byte)
  dec : Option DecGrid
  deriving DecidableEq, Repr

/-- The configuration registers 0x02 to 0x08 (R42). -/
structure ConfigRegs where
  tw : Dim
  th : Dim
  levels : BitVec 8
  dither : BitVec 1
  thresh : Byte
  bright : Factor
  contrast : Factor
  deriving DecidableEq, Repr

/-- What STATUS.ERR can say (R250); the codes 7 to 15 are never written. -/
inductive Err where
  /-- 0: the command completed -/
  | ok
  /-- 1: ImageLoadError (R256) -/
  | imageLoad
  /-- 2: UnsupportedLevelsError (R254) -/
  | unsupportedLevels
  /-- 3: SizeMismatchError (R255) -/
  | sizeMismatch
  /-- 4: SequenceError (R252) -/
  | sequence
  /-- 5: ConfigError (R253) -/
  | config
  /-- 6: IllegalCommand (R258) -/
  | illegalCommand
  deriving DecidableEq, Repr

/-- What a read primitive returns to HOST (R66, R67). -/
inductive HostReply where
  /-- a register's 32-bit value -/
  | word (v : Word)
  /-- a plane's element, 8 bits -/
  | element (v : Byte)
  deriving DecidableEq, Repr

/-- The block between two HOST primitives (R54), and HOST's own side. -/
structure State where
  /-- the seven planes (R21) -/
  mem : Memory
  /-- the seven configuration registers (R42) -/
  cfg : ConfigRegs
  /-- STATUS.ERR (R39) -/
  err : Err
  /-- STATUS.SHORT (R40) -/
  short : Bool
  /-- STATUS.LONG (R40) -/
  long : Bool
  /-- VBPP (R49) -/
  vbpp : BitVec 2
  /-- DCOUNT (R50) -/
  dcount : Word
  /-- the MODEL's field: the primitives HOST issues next, the first one first (R72; log 1) -/
  pending : List HostMove
  /-- the MODEL's field: what the reads have returned to HOST, oldest first (log 2) -/
  replies : List HostReply
  /-- the MODEL's field: the number of the next reset event, which picks its draws (log 4) -/
  resets : Nat
  deriving DecidableEq, Repr

/-- Reasons the machine stops with a fault: NONE. "No `stuck` state exists: every command, legal or not, completes"
(U17); every error of R250 is a next state. Raised by nobody; nothing safe or unsafe hangs on it (log 15). -/
inductive Fault where
  deriving DecidableEq, Repr

/-- Reasons a step has no meaning. But for `notModelled` they are HOST primitives the spec refuses (R67, R68, U5, U10);
no command ends in one. All are safe: the step is not available and nothing changes (log 9). -/
inductive Refusal where
  /-- raised by a refused arm of exec: an instruction with no meaning yet; safe (no arm raises it) -/
  | notModelled (mnemonic : String)
  /-- raised by PlaneRead of an invalid plane (R67, U5); safe -/
  | planeInvalid
  /-- raised by PlaneRead at or beyond the plane's length (R67, R69, U5); safe -/
  | indexOutOfRange
  /-- raised by PlaneRead of a DEC cell that holds no value, under STOP_EARLY (R206, U3); safe -/
  | cellHoldsNoValue
  /-- raised by PlaneLoad of QNT, BUF or DEC (R68); safe -/
  | loadNotAllowed
  /-- raised by PlaneLoad with arguments that break a precondition (R68, U10); safe -/
  | loadPrecondition
  /-- raised by PlaneDrop of a plane other than SRC and VBUF (R68); safe -/
  | dropNotAllowed
  deriving DecidableEq, Repr

/-- Every plane invalid (R55). -/
def Memory.empty : Memory :=
  { src := none, nrm := none, pix := none, qnt := none, buf := none, vbuf := none, dec := none }

/-- The state after reset when the configuration registers hold c: R55 fixes everything but c. -/
def State.resetWith (c : ConfigRegs) : State :=
  { mem := Memory.empty, cfg := c, err := .ok, short := false, long := false, vbpp := 0, dcount := 0,
    pending := [], replies := [], resets := 0 }

/-- The value the model names for the configuration registers right after reset, where R55 says a draw.
DESIGN CHOICE (log 3); unsafe. -/
def ConfigRegs.zero : ConfigRegs :=
  { tw := 0, th := 0, levels := 0, dither := 0, thresh := 0, bright := 0, contrast := 0 }

/-- The machine right after reset (R55, R290). -/
def State.reset : State := State.resetWith ConfigRegs.zero

end Sys2Proof.Machine
end

