-- ==== Sys2Proof/Machine/Operands.lean ====
section
/-! DEFINITION. The functions of the pseudocode (spec/00_scope.md R10), the implicit operands that commands take from
the configuration registers (spec/30_encoding.md R94) and the geometry of the packed buffer (spec/20_memory.md R62,
R63). All arithmetic is exact (R9). -/

namespace Sys2Proof.Machine

/-- clamp(v, lo, hi) (R10). -/
def clamp (v lo hi : Int) : Int := if v < lo then lo else if hi < v then hi else v

/-- round_hu(q) = floor(q + 1/2): to nearest, a tie goes up (R10). -/
def roundHu (q : Rat) : Int := (q + 1 / 2).floor

/-- ceil_div(a, b) = (a + b - 1) div b, for b > 0 (R10). -/
def ceilDiv (a b : Nat) : Nat := (a + b - 1) / b

/-- v >> 8 = floor(v / 256), also for negative v (R10). -/
def shiftRight8 (v : Int) : Int := v / 256

/-- An integer that a rule has brought into [0, 255], stored as a sample. -/
def toByte (v : Int) : Byte := BitVec.ofNat 8 v.toNat

/-- targetW = CR.TW (R94). -/
def State.targetW (s : State) : Nat := s.cfg.tw.toNat

/-- targetH = CR.TH (R94). -/
def State.targetH (s : State) : Nat := s.cfg.th.toNat

/-- levels = CR.LEVELS, the count itself (R45, R94). -/
def State.levelCount (s : State) : Nat := s.cfg.levels.toNat

/-- dither = CR.DITHER[0] (R46, R94). -/
def State.ditherOn (s : State) : Bool := s.cfg.dither = 1#1

/-- A UQ8.8 factor as a rational: raw / 256 (R48, R94). -/
def factorValue (f : Factor) : Rat := (f.toNat : Rat) / 256

/-- The bits per pixel that go with a level count: 1 for monochrome, 2 for 4-level (R6, R94). -/
def bppOfLevels (n : Nat) : Nat := if n = 2 then 1 else 2

/-- pixels per byte = 8 / bits per pixel (R6, R62). -/
def pixelsPerByte (bpp : Nat) : Nat := 8 / bpp

/-- rowbytes = ceil_div(W, ppb) (R62). -/
def rowBytes (bpp w : Nat) : Nat := ceilDiv w (pixelsPerByte bpp)

/-- The length of the packed buffer of a w × h grid: ceil(W/ppb) · H (R62, R185, R200). -/
def expectedBytes (bpp w h : Nat) : Nat := rowBytes bpp w * h

/-- The left shift of pixel k's field in its byte: 8 - bpp·(k+1) (R63). -/
def fieldShift (bpp k : Nat) : Nat := 8 - bpp * (k + 1)

/-- The field of pixel k of a byte: (b >> (8 - bpp·(k+1))) & (2^bpp - 1) (R63, R201). -/
def fieldAt (bpp : Nat) (b : Byte) (k : Nat) : Byte := (b >>> fieldShift bpp k) &&& BitVec.ofNat 8 (2 ^ bpp - 1)

/-- A grid of w × h elements in row-major order, x fastest (R12, R61): element y·w + x is f x y. -/
def gridOf {α : Type} (w h : Nat) (f : Nat → Nat → α) : List α :=
  (List.range (w * h)).map (fun i => f (i % w) (i / w))

/-- An image of w × h × ch samples, row-major with the channels of a pixel adjacent (R61): element (y·w + x)·ch + c is
f x y c. -/
def imageOf {α : Type} (w h ch : Nat) (f : Nat → Nat → Nat → α) : List α :=
  (List.range (w * h * ch)).map (fun i => f (i / ch % w) (i / ch / w) (i % ch))

end Sys2Proof.Machine
end

