-- ==== Sys2Proof/Machine/Planes.lean ====
section
/-! DEFINITION. Reading the planes (spec/20_memory.md R61, R67; spec/10_state.md R31, R32) and their canonical form
`Memory.wf`: what the spec says every valid plane meets (spec/10_state.md R22 to R29, spec/20_memory.md R68). -/

namespace Sys2Proof.Machine

/-- img[x, y, c], element (y·w + x)·ch + c (R61). Outside the image: 0, which no command reads (log 12). -/
def Image.sample (g : Image) (x y c : Nat) : Byte := g.data.getD ((y * g.w.toNat + x) * g.ch.toNat + c) 0

/-- g[x, y] of PIX, element y·w + x (R61). -/
def Grid.cell (g : Grid) (x y : Nat) : Byte := g.cells.getD (y * g.w.toNat + x) 0

/-- g[x, y] of QNT (R61). -/
def QGrid.cell (g : QGrid) (x y : Nat) : Level := g.cells.getD (y * g.w.toNat + x) 0

/-- g[x, y] of DEC, `none` where the cell holds no value (R61, R206). -/
def DecGrid.cell (g : DecGrid) (x y : Nat) : Option Byte := g.cells.getD (y * g.w.toNat + x) none

/-- Byte k of a byte buffer (R61). -/
def PackedBuf.byte (b : PackedBuf) (k : Nat) : Byte := b.bytes.getD k 0

/-! ### The canonical form -/

/-- SRC: the samples are exactly w·h·ch; w, h may be 0 and ch anything (R22, R23, R68). -/
def Image.sourceWf (g : Image) : Bool := decide (g.data.length = g.w.toNat * g.h.toNat * g.ch.toNat)

/-- NRM: w ≥ 1, h ≥ 1, ch ∈ {1, 3}, and w·h·ch samples (R24). -/
def Image.normalizedWf (g : Image) : Bool :=
  decide (1 ≤ g.w.toNat ∧ 1 ≤ g.h.toNat ∧ (g.ch = 1#8 ∨ g.ch = 3#8) ∧
    g.data.length = g.w.toNat * g.h.toNat * g.ch.toNat)

/-- PIX: w ≥ 1, h ≥ 1, w·h cells (R25). -/
def Grid.wf (g : Grid) : Bool :=
  decide (1 ≤ g.w.toNat ∧ 1 ≤ g.h.toNat ∧ g.cells.length = g.w.toNat * g.h.toNat)

/-- QNT: QLEVELS ∈ {2, 4} and every cell below it (R26). -/
def QGrid.wf (g : QGrid) : Bool :=
  decide (1 ≤ g.w.toNat ∧ 1 ≤ g.h.toNat ∧ (g.levels = 2#8 ∨ g.levels = 4#8) ∧
    g.cells.length = g.w.toNat * g.h.toNat ∧ ∀ q ∈ g.cells, q.toNat < g.levels.toNat)

/-- Every pixel position of the buffer's bytes that lies past the row's width holds 0 (R27, R64, R186). -/
def PackedBuf.paddingZero (b : PackedBuf) : Bool :=
  decide (∀ i < b.bytes.length, ∀ k < pixelsPerByte b.bpp.toNat,
    b.w.toNat ≤ pixelsPerByte b.bpp.toNat * (i % rowBytes b.bpp.toNat b.w.toNat) + k →
      fieldAt b.bpp.toNat (b.byte i) k = 0#8)

/-- BUF: bits per pixel 1 or 2, len = ceil_div(w, 8/aux)·h, zero padding (R27). -/
def PackedBuf.wf (b : PackedBuf) : Bool :=
  decide (1 ≤ b.w.toNat ∧ 1 ≤ b.h.toNat ∧ (b.bpp = 1#8 ∨ b.bpp = 2#8) ∧
    b.bytes.length = expectedBytes b.bpp.toNat b.w.toNat b.h.toNat) && b.paddingZero

/-- VBUF: 0 ≤ len ≤ 2^32 - 1 (R28). -/
def vbufWf (bytes : List Byte) : Bool := decide (bytes.length < 2 ^ 32)

/-- An intensity the Unpacker can produce (R29). -/
def decodedIntensity (v : Byte) : Bool := v = 0#8 || v = 85#8 || v = 170#8 || v = 255#8

/-- DEC: w ≥ 1, h ≥ 1, w·h cells, each that holds a value in {0, 85, 170, 255} (R29). -/
def DecGrid.wf (g : DecGrid) : Bool :=
  decide (1 ≤ g.w.toNat ∧ 1 ≤ g.h.toNat ∧ g.cells.length = g.w.toNat * g.h.toNat) &&
    g.cells.all (fun c => c.all decodedIntensity)

/-- The canonical form of the plane space: every valid plane is as the spec says it is. -/
def Memory.wf (m : Memory) : Bool :=
  m.src.all Image.sourceWf && m.nrm.all Image.normalizedWf && m.pix.all Grid.wf && m.qnt.all QGrid.wf &&
    m.buf.all PackedBuf.wf && m.vbuf.all vbufWf && m.dec.all DecGrid.wf

/-! ### Validity, attributes, elements -/

/-- P[p].valid (R22). -/
def Memory.valid (m : Memory) : Plane → Bool
  | .src => m.src.isSome
  | .nrm => m.nrm.isSome
  | .pix => m.pix.isSome
  | .qnt => m.qnt.isSome
  | .buf => m.buf.isSome
  | .vbuf => m.vbuf.isSome
  | .dec => m.dec.isSome

/-- The four attributes of a plane as the attribute registers show them (R32). -/
structure Attributes where
  w : Dim
  h : Dim
  aux : BitVec 8
  len : Word
  deriving DecidableEq, Repr

/-- What an invalid plane's attribute registers read (R31, R32). -/
def Attributes.zero : Attributes := { w := 0, h := 0, aux := 0, len := 0 }

/-- An image has w, h and ch; it has no len (R22, R32). -/
def Image.attributes (g : Image) : Attributes := { w := g.w, h := g.h, aux := g.ch, len := 0 }
/-- A grid has w and h (R22). -/
def Grid.attributes (g : Grid) : Attributes := { w := g.w, h := g.h, aux := 0, len := 0 }
/-- QNT's aux is QLEVELS (R22). -/
def QGrid.attributes (g : QGrid) : Attributes := { w := g.w, h := g.h, aux := g.levels, len := 0 }
/-- BUF has all four (R22). -/
def PackedBuf.attributes (b : PackedBuf) : Attributes :=
  { w := b.w, h := b.h, aux := b.bpp, len := BitVec.ofNat 32 b.bytes.length }
/-- VBUF has len only; w, h, aux are "stored as 0" (R68). -/
def vbufAttributes (bytes : List Byte) : Attributes :=
  { w := 0, h := 0, aux := 0, len := BitVec.ofNat 32 bytes.length }
/-- DEC has w and h (R22). -/
def DecGrid.attributes (g : DecGrid) : Attributes := { w := g.w, h := g.h, aux := 0, len := 0 }

/-- Plane p's attributes: 0 while it is invalid and where its kind lacks one (R31, R32). -/
def Memory.attributes (m : Memory) : Plane → Attributes
  | .src => (m.src.map Image.attributes).getD Attributes.zero
  | .nrm => (m.nrm.map Image.attributes).getD Attributes.zero
  | .pix => (m.pix.map Grid.attributes).getD Attributes.zero
  | .qnt => (m.qnt.map QGrid.attributes).getD Attributes.zero
  | .buf => (m.buf.map PackedBuf.attributes).getD Attributes.zero
  | .vbuf => (m.vbuf.map vbufAttributes).getD Attributes.zero
  | .dec => (m.dec.map DecGrid.attributes).getD Attributes.zero

/-- The elements of plane p in the order of R61 as 8-bit values, a level zero-extended (R67); `none` for an invalid
plane, `none` inside for a cell that holds no value (R206). -/
def Memory.elements (m : Memory) : Plane → Option (List (Option Byte))
  | .src => m.src.map (fun g => g.data.map some)
  | .nrm => m.nrm.map (fun g => g.data.map some)
  | .pix => m.pix.map (fun g => g.cells.map some)
  | .qnt => m.qnt.map (fun g => g.cells.map (fun q => some (q.setWidth 8)))
  | .buf => m.buf.map (fun b => b.bytes.map some)
  | .vbuf => m.vbuf.map (fun b => b.map some)
  | .dec => m.dec.map (fun g => g.cells)

/-- PlaneRead(p, i): the element, or the refusal that R67 and R206 give the read. -/
def Memory.element (m : Memory) (p : Plane) (i : Nat) : Except Refusal Byte :=
  match m.elements p with
  | none => .error .planeInvalid
  | some l =>
    match l[i]? with
    | none => .error .indexOutOfRange
    | some none => .error .cellHoldsNoValue
    | some (some v) => .ok v

/-- MemRead(p, i, n): elements i to i + n - 1 (R12). -/
def Memory.read (m : Memory) (p : Plane) (i n : Nat) : Except Refusal (List Byte) :=
  (List.range n).mapM (fun k => m.element p (i + k))

end Sys2Proof.Machine
end

