-- ==== Sys2Proof/Machine/Flags.lean ====
section
/-! DEFINITION. The register STATUS and its fields (spec/10_state.md R38 to R40), the error codes
(spec/60_exceptions.md R250) and the length advisory of the Unpacker (spec/44_unpack.md R205). -/

namespace Sys2Proof.Machine

/-- The code of an error as STATUS.ERR shows it (R250). -/
def Err.code : Err → BitVec 4
  | .ok => 0
  | .imageLoad => 1
  | .unsupportedLevels => 2
  | .sizeMismatch => 3
  | .sequence => 4
  | .config => 5
  | .illegalCommand => 6

/-- The valid bits V6 to V0, V6 the highest (R38). -/
def Memory.validBits (m : Memory) : BitVec 7 :=
  BitVec.ofBool (m.valid .dec) ++ BitVec.ofBool (m.valid .vbuf) ++ BitVec.ofBool (m.valid .buf) ++
    BitVec.ofBool (m.valid .qnt) ++ BitVec.ofBool (m.valid .pix) ++ BitVec.ofBool (m.valid .nrm) ++
    BitVec.ofBool (m.valid .src)

/-- The bits of STATUS, the highest first: 31:15 zero, V6..V0, 7:6 zero, LONG, SHORT, ERR (R38). -/
def State.statusBits (s : State) : BitVec (17 + 7 + 2 + 1 + 1 + 4) :=
  0#17 ++ s.mem.validBits ++ 0#2 ++ BitVec.ofBool s.long ++ BitVec.ofBool s.short ++ s.err.code

/-- STATUS, 32 bits (R38). -/
def State.statusWord (s : State) : Word := s.statusBits.setWidth 32

/-- SHORT <- 1 if L < expected else 0 (R201, R205). -/
def shortFlag (len expected : Nat) : Bool := decide (len < expected)

/-- LONG <- 1 if L > expected else 0 (R201, R205). -/
def longFlag (len expected : Nat) : Bool := decide (expected < len)

/-- DCOUNT <- min(L, expected) (R50, R201). -/
def consumedCount (len expected : Nat) : Word := BitVec.ofNat 32 (min len expected)

end Sys2Proof.Machine
end

