-- ==== Sys2Proof/Machine/Ops.lean ====
section
/-! DEFINITION. The named operations over the state: its updates, the register port (spec/20_memory.md R66), plane load
and drop (R68), how a command ends (spec/60_exceptions.md R262) and the reset event (spec/70_reset_and_hazards.md R290).
-/

namespace Sys2Proof.Machine

/-! ### Updates, each with its lemmas in Laws/State.lean -/

/-- Replace the plane space. -/
def State.withMem (m : Memory) (s : State) : State := { s with mem := m }
/-- Replace the configuration registers. -/
def State.withCfg (c : ConfigRegs) (s : State) : State := { s with cfg := c }
/-- Write STATUS.ERR (R39). -/
def State.withErr (e : Err) (s : State) : State := { s with err := e }
/-- Write SHORT, LONG and DCOUNT together (R40, R50). -/
def State.withLength (sh lo : Bool) (d : Word) (s : State) : State := { s with short := sh, long := lo, dcount := d }
/-- Write VBPP (R49). -/
def State.withVbpp (v : BitVec 2) (s : State) : State := { s with vbpp := v }
/-- HOST's moves still to come. -/
def State.withPending (l : List HostMove) (s : State) : State := { s with pending := l }
/-- Return a value to HOST. -/
def State.withReply (r : HostReply) (s : State) : State := { s with replies := s.replies ++ [r] }

/-! ### Ending a command -/

/-- What a command that raises an error invalidates (R262). -/
inductive ErrDest where
  /-- NORMALIZE's plane -/
  | nrm
  /-- the plane of TOGRAY and ADJUST -/
  | pix
  /-- the plane of the QUANT commands -/
  | qnt
  /-- the plane of the PACK commands -/
  | buf
  /-- the plane of the UNPACK commands -/
  | dec
  /-- DETECT has no plane: CR.VBPP <- 0 -/
  | vbpp
  /-- CONVERT: BUF and NRM, PIX, QNT (R237) -/
  | conversion
  /-- IllegalCommand: nothing (R258) -/
  | nothing
  deriving DecidableEq, Repr

/-- The destination made invalid (R262). -/
def State.invalidate (d : ErrDest) (s : State) : State :=
  match d with
  | .nrm => s.withMem { s.mem with nrm := none }
  | .pix => s.withMem { s.mem with pix := none }
  | .qnt => s.withMem { s.mem with qnt := none }
  | .buf => s.withMem { s.mem with buf := none }
  | .dec => s.withMem { s.mem with dec := none }
  | .vbpp => s.withVbpp 0
  | .conversion => s.withMem { s.mem with nrm := none, pix := none, qnt := none, buf := none }
  | .nothing => s

/-- TAKING AN ERROR, `raise E` (R262): STATUS.ERR <- code(E), the command's destination invalid, nothing else. There is
no handler, vector or mode to go to, and no return from it: ERR stays until the next command other than NOP (R264). -/
def State.raise (e : Err) (d : ErrDest) (s : State) : State := (s.invalidate d).withErr e

/-- How a command ends (R39, R262): with its result and ERR 0, or, from the state it was issued in (R263), raising. -/
def finish (d : ErrDest) (r : Except Err State) (s : State) : Host.Outcome State Fault Refusal :=
  match r with
  | .ok t => .next (t.withErr .ok)
  | .error e => .next (s.raise e d)

/-! ### The register port (R66) -/

/-- Plane p's number (R21). -/
def planeNumber : Plane → Nat
  | .src => 0
  | .nrm => 1
  | .pix => 2
  | .qnt => 3
  | .buf => 4
  | .vbuf => 5
  | .dec => 6

/-- The plane of a number in [0, 6] (R21). -/
def planeOfNumber (n : Nat) : Option Plane :=
  match n with
  | 0 => some .src
  | 1 => some .nrm
  | 2 => some .pix
  | 3 => some .qnt
  | 4 => some .buf
  | 5 => some .vbuf
  | 6 => some .dec
  | _ => none

/-- Attribute k of a plane, zero-extended: k = 0 w, 1 h, 2 aux, 3 len (R32). -/
def Attributes.select (a : Attributes) (k : Nat) : Word :=
  match k with
  | 0 => a.w.setWidth 32
  | 1 => a.h.setWidth 32
  | 2 => a.aux.setWidth 32
  | _ => a.len

/-- The attribute register n = 0x20 + 4·p + k (R32); any number without a plane is reserved and reads 0 (R51). -/
def State.readAttribute (s : State) (n : Nat) : Word :=
  if n < 0x20 then 0
  else
    match planeOfNumber ((n - 0x20) / 4) with
    | some p => (s.mem.attributes p).select ((n - 0x20) % 4)
    | none => 0

/-- RegRead(n): the register's value zero-extended, or 0 for CMD and for a reserved number (R42, R51, R66). -/
def State.readReg (s : State) (n : BitVec 8) : Word :=
  match n.toNat with
  | 0x01 => s.statusWord
  | 0x02 => s.cfg.tw.setWidth 32
  | 0x03 => s.cfg.th.setWidth 32
  | 0x04 => s.cfg.levels.setWidth 32
  | 0x05 => s.cfg.dither.setWidth 32
  | 0x06 => s.cfg.thresh.setWidth 32
  | 0x07 => s.cfg.bright.setWidth 32
  | 0x08 => s.cfg.contrast.setWidth 32
  | 0x09 => s.vbpp.setWidth 32
  | 0x0A => s.dcount
  | k => s.readAttribute k

/-- RegWrite(n, v) for a number other than CMD's: the low bits stored in a read/write register, no effect on a
read-only or reserved one (R51, R66). -/
def State.writeReg (s : State) (n : BitVec 8) (v : Word) : State :=
  match n.toNat with
  | 0x02 => s.withCfg { s.cfg with tw := v.setWidth 16 }
  | 0x03 => s.withCfg { s.cfg with th := v.setWidth 16 }
  | 0x04 => s.withCfg { s.cfg with levels := v.setWidth 8 }
  | 0x05 => s.withCfg { s.cfg with dither := v.setWidth 1 }
  | 0x06 => s.withCfg { s.cfg with thresh := v.setWidth 8 }
  | 0x07 => s.withCfg { s.cfg with bright := v.setWidth 16 }
  | 0x08 => s.withCfg { s.cfg with contrast := v.setWidth 16 }
  | _ => s

/-! ### Plane load and drop (R68) -/

/-- A number HOST offers as a sample: an integer in [0,255], else no sample (R68, U10). -/
def sampleOf (v : Nat) : Option Byte := if v ≤ 255 then some (BitVec.ofNat 8 v) else none

/-- All the samples of a load. -/
def samplesOf (data : List Nat) : Option (List Byte) := data.mapM sampleOf

/-- A number HOST offers as a width or height: in [0, 65535] (R68). -/
def dimOf (v : Nat) : Option Dim := if v ≤ 65535 then some (BitVec.ofNat 16 v) else none

/-- The image a load offers, if its numbers have the widths of R22. -/
def loadedImage (w h ch : Nat) (data : List Nat) : Option Image := do
  let w ← dimOf w
  let h ← dimOf h
  let ch ← sampleOf ch
  let data ← samplesOf data
  some { w := w, h := h, ch := ch, data := data }

/-- The grid a load offers; aux is ignored (R68). -/
def loadedGrid (w h : Nat) (data : List Nat) : Option Grid := do
  let w ← dimOf w
  let h ← dimOf h
  let cells ← samplesOf data
  some { w := w, h := h, cells := cells }

/-- The memory a load leaves when its content is g in form, else the refusal of U10. -/
def loadIf {α : Type} (form : α → Bool) (g : Option α) (put : α → Memory) : Except Refusal Memory :=
  match g.filter form with
  | some g => .ok (put g)
  | none => .error .loadPrecondition

/-- PlaneLoad(p, w, h, aux, data): plane p replaced as a whole by content in its canonical form, or the refusal R68
gives the load. -/
def Memory.load (m : Memory) (p : Plane) (w h aux : Nat) (data : List Nat) : Except Refusal Memory :=
  match p with
  | .src => loadIf Image.sourceWf (loadedImage w h aux data) (fun g => { m with src := some g })
  | .nrm => loadIf Image.normalizedWf (loadedImage w h aux data) (fun g => { m with nrm := some g })
  | .pix => loadIf Grid.wf (loadedGrid w h data) (fun g => { m with pix := some g })
  | .vbuf => loadIf vbufWf (samplesOf data) (fun g => { m with vbuf := some g })
  | .qnt | .buf | .dec => .error .loadNotAllowed

/-- PlaneDrop(p): SRC or VBUF made invalid; refused for the other planes (R68). -/
def Memory.drop (m : Memory) (p : Plane) : Except Refusal Memory :=
  match p with
  | .src => .ok { m with src := none }
  | .vbuf => .ok { m with vbuf := none }
  | .nrm | .pix | .qnt | .buf | .dec => .error .dropNotAllowed

/-! ### The reset event (R290) -/

/-- The configuration registers after the n-th reset event: draws (R55, R291; log 4). -/
def drawnConfig (n : Nat) : ConfigRegs :=
  { tw := Config.resetTw n, th := Config.resetTh n, levels := Config.resetLevels n, dither := Config.resetDither n,
    thresh := Config.resetThresh n, bright := Config.resetBright n, contrast := Config.resetContrast n }

/-- The reset event: the block in the state of R55, its configuration drawn; what HOST is about to do and has been told
is HOST's and stays. -/
def State.resetEvent (s : State) : State :=
  { State.resetWith (drawnConfig s.resets) with pending := s.pending, replies := s.replies, resets := s.resets + 1 }

end Sys2Proof.Machine
end

