-- ==== Sys2Proof/Machine/Normalize.lean ====
section
/-! DEFINITION. NORMALIZE, the Geometric Normalizer (spec/40_normalize.md R110 to R121). -/

namespace Sys2Proof.Machine

/-- scale = max(tw/ow, th/oh), an exact rational (R113). -/
def coverScale (ow oh tw th : Nat) : Rat := max ((tw : Rat) / ow) ((th : Rat) / oh)

/-- round_hu(o · scale): a side of the resized image (R114). -/
def scaledSide (o : Nat) (scale : Rat) : Nat := (roundHu (o * scale)).toNat

/-- max(0, (scaled - target) div 2): an offset of the crop window (R115). -/
def cropOffset (scaled target : Nat) : Nat := (max 0 (((scaled : Int) - target) / 2)).toNat

/-- The value every sample of channel c has, if they all have one (R116, P4). -/
def Image.constantChannel (g : Image) (c : Nat) : Option Byte :=
  let v := g.data.getD c 0
  if g.data.zipIdx.all (fun e => e.2 % g.ch.toNat != c || e.1 == v) then some v else none

/-- RESAMPLE(g, sw, sh)[x, y, c] (R116): a constant channel keeps its value (P4), any other sample is open. The shape
(P1), the range (P2) and being a function of image and size (P3) hold by its type. -/
def Image.resample (g : Image) (consts : List (Option Byte)) (sw sh x y c : Nat) : Byte :=
  match consts.getD c none with
  | some v => v
  | none =>
    Config.freeSample
      { ow := g.w.toNat, oh := g.h.toNat, ch := g.ch.toNat, samples := g.data, sw := sw, sh := sh, x := x, y := y, c := c }

/-- The constants of all channels. -/
def Image.constants (g : Image) : List (Option Byte) := (List.range g.ch.toNat).map g.constantChannel

/-- Cover-fit resize and centre crop of g to tw × th (R110): out[x, y, c] = resized[left + x, top + y, c]. -/
def Image.coverFit (g : Image) (tw th : Dim) : Image :=
  let scale := coverScale g.w.toNat g.h.toNat tw.toNat th.toNat
  let sw := scaledSide g.w.toNat scale
  let sh := scaledSide g.h.toNat scale
  let left := cropOffset sw tw.toNat
  let top := cropOffset sh th.toNat
  let consts := g.constants
  { w := tw, h := th, ch := g.ch,
    data := imageOf tw.toNat th.toNat g.ch.toNat (fun x y c => g.resample consts sw sh (left + x) (top + y) c) }

/-- The pseudocode of R110, the checks in its order (R111, R112, R261). -/
def normalizeBody (s : State) : Except Err State :=
  if s.targetW = 0 ∨ s.targetH = 0 then .error .config
  else
    match s.mem.src with
    | none => .error .imageLoad
    | some g =>
      if g.w.toNat = 0 ∨ g.h.toNat = 0 then .error .imageLoad
      else if g.ch = 1#8 ∨ g.ch = 3#8 then
        .ok (s.withMem { s.mem with nrm := some (g.coverFit s.cfg.tw s.cfg.th) })
      else .error .imageLoad

/-- NORMALIZE (R110). -/
def execNormalize (s : State) : Host.Outcome State Fault Refusal := finish .nrm (normalizeBody s) s

end Sys2Proof.Machine
end

