-- ==== Sys2Proof/Machine/Pack.lean ====
section
/-! DEFINITION. PACK.1 and PACK.2, the Bit Packer (spec/43_pack.md R180 to R188; layout spec/20_memory.md R62 to R64).
-/

namespace Sys2Proof.Machine

/-- The 1-bit field of a level: "is-black", 1 for level 0 and 0 otherwise (R64, R182). -/
def blackBit (q : Level) : Byte := if q = 0#2 then 1#8 else 0#8

/-- The 2-bit field of a level: the level itself, no inversion (R64, R183). -/
def levelField (q : Level) : Byte := q.setWidth 8

/-- One byte of a row: the fields of the pixels x = ppb·j + k that exist, each shifted to its place and or-ed in; the
other positions stay 0 (R182, R183, R186). -/
def packByte (bpp : Nat) (field : Level → Byte) (w : Nat) (row : Nat → Level) (j : Nat) : Byte :=
  (List.range (pixelsPerByte bpp)).foldl
    (fun b k =>
      let x := pixelsPerByte bpp * j + k
      if x < w then b ||| (field (row x) <<< fieldShift bpp k) else b) 0#8

/-- The packed buffer of a grid: byte y·rowbytes + j is byte j of row y (R62). -/
def QGrid.packed (bpp : Nat) (field : Level → Byte) (g : QGrid) : PackedBuf :=
  { w := g.w, h := g.h, bpp := BitVec.ofNat 8 bpp,
    bytes := gridOf (rowBytes bpp g.w.toNat) g.h.toNat (fun j y => packByte bpp field g.w.toNat (fun x => g.cell x y) j) }

/-- The checks of R181 and the writing of BUF. -/
def packBody (bpp : Nat) (field : Level → Byte) (s : State) : Except Err State :=
  match s.mem.qnt with
  | none => .error .sequence
  | some g =>
    if g.levels.toNat = 2 ^ bpp then .ok (s.withMem { s.mem with buf := some (g.packed bpp field) })
    else .error .unsupportedLevels

/-- R182 with the checks of R181. -/
def pack1Body (s : State) : Except Err State := packBody 1 blackBit s

/-- R183 with the checks of R181. -/
def pack2Body (s : State) : Except Err State := packBody 2 levelField s

/-- PACK.1 (R182). -/
def execPack1 (s : State) : Host.Outcome State Fault Refusal := finish .buf (pack1Body s) s

/-- PACK.2 (R183). -/
def execPack2 (s : State) : Host.Outcome State Fault Refusal := finish .buf (pack2Body s) s

end Sys2Proof.Machine
end

