-- ==== Sys2Proof/Machine/Quantize.lean ====
section
/-! DEFINITION. QUANT.THRESH, QUANT.UNIFORM and QUANT.DITHER, the Quantizer (spec/42_quantize.md R150 to R173). -/

namespace Sys2Proof.Machine

/-- An integer that a rule has brought into [0, 3], stored as a level. -/
def toLevel (v : Int) : Level := BitVec.ofNat 2 v.toNat

/-! ### Error diffusion (R156 to R166), in exact rationals -/

/-- step = 255 / (n - 1): the distance of two output levels (R156). -/
def levelStep (n : Nat) : Rat := 255 / ((n : Rat) - 1)

/-- k = clamp(floor(old / step + 1/2), 0, n - 1): the nearest output level, a tie to the higher (R157). -/
def nearestLevel (n : Nat) (old : Rat) : Int := clamp (roundHu (old / levelStep n)) 0 ((n : Int) - 1)

/-- err = old - k·step (R159). -/
def quantError (n : Nat) (old : Rat) : Rat := old - (nearestLevel n old : Rat) * levelStep n

/-- work[j] <- work[j] + v. -/
def addAt (j : Nat) (v : Rat) (work : List Rat) : List Rat := work.modify j (· + v)

/-- The four shares of the pixel in column x of row y, whose error is e, added to those of its not yet visited
neighbours that exist (R159, R160): right 7/16, below-left 3/16, below 5/16, below-right 1/16. -/
def diffuse (w h x y : Nat) (e : Rat) (work : List Rat) : List Rat :=
  let work := if x + 1 < w then addAt (y * w + (x + 1)) (e * (7 / 16)) work else work
  let work := if 1 ≤ x ∧ y + 1 < h then addAt ((y + 1) * w + (x - 1)) (e * (3 / 16)) work else work
  let work := if y + 1 < h then addAt ((y + 1) * w + x) (e * (5 / 16)) work else work
  if x + 1 < w ∧ y + 1 < h then addAt ((y + 1) * w + (x + 1)) (e * (1 / 16)) work else work

/-- Visit pixel i (row-major): its error taken from the work buffer and diffused (R156, R161). -/
def ditherVisit (n w h i : Nat) (work : List Rat) : List Rat :=
  diffuse w h (i % w) (i / w) (quantError n (work.getD i 0)) work

/-- The levels of the next `count` pixels from pixel i on, in row-major order (R161), given the work buffer as the
pixels before have left it. -/
def ditherFrom (n w h : Nat) : Nat → Nat → List Rat → List Level
  | 0, _, _ => []
  | count + 1, i, work =>
    toLevel (nearestLevel n (work.getD i 0)) :: ditherFrom n w h count (i + 1) (ditherVisit n w h i work)

/-- The work buffer at the start: a private copy of the grid (R158). -/
def Grid.workBuffer (g : Grid) : List Rat := gridOf g.w.toNat g.h.toNat (fun x y => ((g.cell x y).toNat : Rat))

/-- The levels QUANT.DITHER gives a grid (R156). -/
def Grid.dithered (n : Nat) (g : Grid) : List Level :=
  ditherFrom n g.w.toNat g.h.toNat (g.w.toNat * g.h.toNat) 0 g.workBuffer

/-! ### The two modes without dithering -/

/-- 1 if the intensity is above the threshold, else 0 (R152). -/
def thresholdLevel (t : Byte) (v : Byte) : Level := if t.toNat < v.toNat then 1#2 else 0#2

/-- The levels QUANT.THRESH gives a grid (R152). -/
def Grid.thresholded (t : Byte) (g : Grid) : List Level :=
  gridOf g.w.toNat g.h.toNat (fun x y => thresholdLevel t (g.cell x y))

/-- clamp((v·n) div 256, 0, n - 1) (R154). -/
def uniformLevel (n : Nat) (v : Byte) : Level := toLevel (clamp (((v.toNat : Int) * n) / 256) 0 ((n : Int) - 1))

/-- The levels QUANT.UNIFORM gives a grid (R154). -/
def Grid.uniform (n : Nat) (g : Grid) : List Level :=
  gridOf g.w.toNat g.h.toNat (fun x y => uniformLevel n (g.cell x y))

/-! ### The commands -/

/-- The checks of R150, the level count before the grid, and the writing of QNT. `domain` is the mode's row of the
table of R151 and `levels` its pixel work. -/
def quantBody (domain : Nat → Bool) (levels : Grid → List Level) (s : State) : Except Err State :=
  if ¬(s.levelCount = 2 ∨ s.levelCount = 4) then .error .unsupportedLevels
  else if domain s.levelCount = false then .error .unsupportedLevels
  else
    match s.mem.pix with
    | none => .error .sequence
    | some g =>
      .ok (s.withMem { s.mem with qnt := some { w := g.w, h := g.h, levels := s.cfg.levels, cells := levels g } })

/-- R152 with the checks of R150: monochrome only (R151). -/
def quantThreshBody (s : State) : Except Err State := quantBody (fun n => n == 2) (Grid.thresholded s.cfg.thresh) s

/-- R154 with the checks of R150: 4 levels only (R151). -/
def quantUniformBody (s : State) : Except Err State := quantBody (fun n => n == 4) (Grid.uniform 4) s

/-- R156 with the checks of R150: 2 or 4 levels (R151). -/
def quantDitherBody (s : State) : Except Err State :=
  quantBody (fun n => n == 2 || n == 4) (Grid.dithered s.levelCount) s

/-- QUANT.THRESH (R152). -/
def execQuantThresh (s : State) : Host.Outcome State Fault Refusal := finish .qnt (quantThreshBody s) s

/-- QUANT.UNIFORM (R154). -/
def execQuantUniform (s : State) : Host.Outcome State Fault Refusal := finish .qnt (quantUniformBody s) s

/-- QUANT.DITHER (R156). -/
def execQuantDither (s : State) : Host.Outcome State Fault Refusal := finish .qnt (quantDitherBody s) s

end Sys2Proof.Machine
end

