-- ==== Sys2Proof/Machine/Tone.lean ====
section
/-! DEFINITION. TOGRAY and ADJUST, the Tone Mapper (spec/41_tone.md R130 to R141). -/

namespace Sys2Proof.Machine

/-- The spec's default LUMA (R133): (19595·r + 38470·g + 7471·b + 32768) >> 16. -/
def lumaBt601 (r g b : Byte) : Byte :=
  BitVec.ofNat 8 ((19595 * r.toNat + 38470 * g.toNat + 7471 * b.toNat + 32768) / 65536)

/-- A LUMA other than the default: open, but for the grays, which keep their value (R132, L3). -/
def lumaOther (r g b : Byte) : Byte := if r = g ∧ g = b then r else Config.freeLuma r g b

/-- LUMA of this machine (R8, R132). -/
def luma (r g b : Byte) : Byte :=
  match Config.lumaChoice with
  | .bt601 => lumaBt601 r g b
  | .other => lumaOther r g b

/-- The PixelGrid of an image (R130): a one-channel image is copied (R131), a colour image reduced pixel by pixel with
the given LUMA (R132). -/
def Image.toGrayWith (lum : Byte → Byte → Byte → Byte) (g : Image) : Grid :=
  { w := g.w, h := g.h,
    cells :=
      if g.ch = 1#8 then gridOf g.w.toNat g.h.toNat (fun x y => g.sample x y 0)
      else gridOf g.w.toNat g.h.toNat (fun x y => lum (g.sample x y 0) (g.sample x y 1) (g.sample x y 2)) }

/-- The pseudocode of R130. -/
def toGrayBody (s : State) : Except Err State :=
  match s.mem.nrm with
  | none => .error .sequence
  | some g => .ok (s.withMem { s.mem with pix := some (g.toGrayWith luma) })

/-- TOGRAY (R130). -/
def execToGray (s : State) : Host.Outcome State Fault Refusal := finish .pix (toGrayBody s) s

/-- The contrast step: clamp(128 + (((v - 128)·C) >> 8), 0, 255) (R136, R137). -/
def contrastStep (c : Factor) (v : Byte) : Int :=
  clamp (128 + shiftRight8 (((v.toNat : Int) - 128) * c.toNat)) 0 255

/-- The brightness step: clamp((u·B) >> 8, 0, 255) (R136, R138). -/
def brightnessStep (b : Factor) (u : Int) : Int := clamp (shiftRight8 (u * b.toNat)) 0 255

/-- Contrast, then brightness, on one sample; the order is fixed (R139). -/
def toneSample (c b : Factor) (v : Byte) : Byte := toByte (brightnessStep b (contrastStep c v))

/-- The adjusted grid, every cell from the old grid (R30, R136). -/
def Grid.adjusted (g : Grid) (c b : Factor) : Grid :=
  { g with cells := gridOf g.w.toNat g.h.toNat (fun x y => toneSample c b (g.cell x y)) }

/-- The pseudocode of R136. -/
def adjustBody (s : State) : Except Err State :=
  match s.mem.pix with
  | none => .error .sequence
  | some g => .ok (s.withMem { s.mem with pix := some (g.adjusted s.cfg.contrast s.cfg.bright) })

/-- ADJUST (R136). -/
def execAdjust (s : State) : Host.Outcome State Fault Refusal := finish .pix (adjustBody s) s

end Sys2Proof.Machine
end

