-- ==== Sys2Proof/Machine/Convert.lean ====
section
/-! DEFINITION. CONVERT, the whole forward path as one command (spec/45_system.md R235 to R238). -/

namespace Sys2Proof.Machine

/-- The stages after TOGRAY, chosen from LEVELS and DITHER (R238): ADJUST only on the dithered path. -/
def convertTail (s : State) : Except Err State :=
  if s.levelCount = 2 then
    if s.ditherOn then do
      let s ← adjustBody s
      let s ← quantDitherBody s
      pack1Body s
    else do
      let s ← quantThreshBody s
      pack1Body s
  else do
    let s ← quantUniformBody s
    pack2Body s

/-- The stages, each on the state the one before left; the level count is checked before any pixel work (R235). -/
def convertStages (s : State) : Except Err State :=
  if ¬(s.levelCount = 2 ∨ s.levelCount = 4) then .error .unsupportedLevels
  else do
    let s ← normalizeBody s
    let s ← toGrayBody s
    convertTail s

/-- NRM, PIX and QNT invalid: no intermediate is left (R236). -/
def Memory.withoutIntermediates (m : Memory) : Memory := { m with nrm := none, pix := none, qnt := none }

/-- The pseudocode of R235. -/
def convertBody (s : State) : Except Err State := do
  let t ← convertStages s
  .ok (t.withMem t.mem.withoutIntermediates)

/-- CONVERT (R235); an error of any step ends it as R237 says. -/
def execConvert (s : State) : Host.Outcome State Fault Refusal := finish .conversion (convertBody s) s

end Sys2Proof.Machine
end

