-- ==== Sys2Proof/Machine/System.lean ====
section
/-! DEFINITION. The system commands NOP and CLEAR (spec/45_system.md R230, R231). -/

namespace Sys2Proof.Machine

/-- NOP (R230): "no plane, no register and no flag changes, STATUS.ERR included". -/
def execNop (s : State) : Host.Outcome State Fault Refusal := .next s

/-- The planes CLEAR leaves valid: HOST's own, SRC and VBUF (R231). -/
def Memory.cleared (m : Memory) : Memory :=
  { m with nrm := none, pix := none, qnt := none, buf := none, dec := none }

/-- CLEAR (R231). -/
def execClear (s : State) : Host.Outcome State Fault Refusal :=
  .next ((((s.withMem s.mem.cleared).withLength false false 0).withVbpp 0).withErr .ok)

end Sys2Proof.Machine
end

