-- ==== Sys2Proof/Machine/Unpack.lean ====
section
/-! DEFINITION. UNPACK.1, UNPACK.2 and DETECT, the Bit Unpacker and the format discriminator (spec/44_unpack.md R200 to
R210). -/

namespace Sys2Proof.Machine

/-- INTENSITY of a 1-bit field: 0 if it is 1 (black), else 255 (R202). -/
def intensity1 (field : Byte) : Byte := if field = 1#8 then 0#8 else 255#8

/-- INTENSITY of a 2-bit field: field · 85 (R203). -/
def intensity2 (field : Byte) : Byte := field * 85#8

/-- FILL: what a missing byte decodes as, if as anything (R206). -/
def fillByte : Config.ShortPolicy → Option Byte
  | .zeroFillBytes => some 0#8
  | .stopEarly => none

/-- byte(i): the buffer's byte, or what the policy gives for a missing one (R201, R206). -/
def byteOrFill (policy : Config.ShortPolicy) (bytes : List Byte) (i : Nat) : Option Byte :=
  match bytes[i]? with
  | some b => some b
  | none => fillByte policy

/-- Pixel (x, y): INTENSITY of field x mod ppb of byte y·rowbytes + x div ppb (R201). -/
def unpackPixel (bpp : Nat) (intensity : Byte → Byte) (policy : Config.ShortPolicy) (bytes : List Byte) (w x y : Nat) :
    Option Byte :=
  (byteOrFill policy bytes (y * rowBytes bpp w + x / pixelsPerByte bpp)).map
    (fun b => intensity (fieldAt bpp b (x % pixelsPerByte bpp)))

/-- The decoded grid of w × h (R201). -/
def unpackedGrid (bpp : Nat) (intensity : Byte → Byte) (policy : Config.ShortPolicy) (bytes : List Byte) (w h : Dim) :
    DecGrid :=
  { w := w, h := h, cells := gridOf w.toNat h.toNat (unpackPixel bpp intensity policy bytes w.toNat) }

/-- The checks and common body of R201. -/
def unpackBody (bpp : Nat) (intensity : Byte → Byte) (policy : Config.ShortPolicy) (s : State) : Except Err State :=
  if s.targetW = 0 ∨ s.targetH = 0 then .error .config
  else
    match s.mem.vbuf with
    | none => .error .sequence
    | some bytes =>
      let expected := expectedBytes bpp s.targetW s.targetH
      .ok ((s.withMem { s.mem with dec := some (unpackedGrid bpp intensity policy bytes s.cfg.tw s.cfg.th) }).withLength
        (shortFlag bytes.length expected) (longFlag bytes.length expected) (consumedCount bytes.length expected))

/-- R201 with R202. -/
def unpack1Body (s : State) : Except Err State := unpackBody 1 intensity1 Config.shortPolicy s

/-- R201 with R203. -/
def unpack2Body (s : State) : Except Err State := unpackBody 2 intensity2 Config.shortPolicy s

/-- UNPACK.1 (R202). -/
def execUnpack1 (s : State) : Host.Outcome State Fault Refusal := finish .dec (unpack1Body s) s

/-- UNPACK.2 (R203). -/
def execUnpack2 (s : State) : Host.Outcome State Fault Refusal := finish .dec (unpack2Body s) s

/-- The pseudocode of R208; on every error VBPP becomes 0, which `finish .vbpp` does. -/
def detectBody (s : State) : Except Err State :=
  if s.targetW = 0 ∨ s.targetH = 0 then .error .config
  else
    match s.mem.vbuf with
    | none => .error .sequence
    | some bytes =>
      if bytes.length = expectedBytes 1 s.targetW s.targetH then .ok (s.withVbpp 1)
      else if bytes.length = expectedBytes 2 s.targetW s.targetH then .ok (s.withVbpp 2)
      else .error .sizeMismatch

/-- DETECT (R208). -/
def execDetect (s : State) : Host.Outcome State Fault Refusal := finish .vbpp (detectBody s) s

end Sys2Proof.Machine
end

