-- ==== Sys2Proof/Machine/Dispatch.lean ====
section
/-! DEFINITION. One arm per command of spec/30_encoding.md R92. -/

namespace Sys2Proof.Machine

def exec (i : Instr) (s : State) : Host.Outcome State Fault Refusal :=
  match i with
  | .nop => Sys2Proof.Machine.execNop s
  | .clear => Sys2Proof.Machine.execClear s
  | .normalize => Sys2Proof.Machine.execNormalize s
  | .toGray => Sys2Proof.Machine.execToGray s
  | .adjust => Sys2Proof.Machine.execAdjust s
  | .quantThresh => Sys2Proof.Machine.execQuantThresh s
  | .quantUniform => Sys2Proof.Machine.execQuantUniform s
  | .quantDither => Sys2Proof.Machine.execQuantDither s
  | .pack1 => Sys2Proof.Machine.execPack1 s
  | .pack2 => Sys2Proof.Machine.execPack2 s
  | .unpack1 => Sys2Proof.Machine.execUnpack1 s
  | .unpack2 => Sys2Proof.Machine.execUnpack2 s
  | .detect => Sys2Proof.Machine.execDetect s
  | .convert => Sys2Proof.Machine.execConvert s

end Sys2Proof.Machine
end

