-- ==== Sys2Proof/Machine/HostPort.lean ====
section
/-! DEFINITION. What each move of the agent HOST does to the block (spec/20_memory.md R66 to R68, R72, R75): the write
to CMD is what makes ENGINE execute (spec/10_state.md R43). -/

namespace Sys2Proof.Machine

/-- ENGINE's move (R76): a command word executed as one atomic step; an illegal word raises IllegalCommand "at decode,
before anything else" (R95, R258, R261). -/
def runWord (c : CmdWord) (s : State) : Host.Outcome State Fault Refusal :=
  match decode c with
  | .ok i => exec i s
  | .error _ => .next (s.raise .illegalCommand .nothing)

/-- The number of register CMD (R42). -/
def cmdNumber : BitVec 8 := 0x00#8

/-- One primitive of HOST. A primitive the spec refuses has no meaning: the step is not available (U5, U10). -/
def hostMove (m : HostMove) (s : State) : Host.Outcome State Fault Refusal :=
  match m with
  | .regRead n => .next (s.withReply (.word (s.readReg n)))
  | .regWrite n v => if n = cmdNumber then runWord (v.setWidth 8) s else .next (s.writeReg n v)
  | .planeRead p i =>
    match s.mem.element p i with
    | .ok v => .next (s.withReply (.element v))
    | .error r => .refused r
  | .planeLoad p w h aux data =>
    match s.mem.load p w h aux data with
    | .ok m => .next (s.withMem m)
    | .error r => .refused r
  | .planeDrop p =>
    match s.mem.drop p with
    | .ok m => .next (s.withMem m)
    | .error r => .refused r
  | .reset => .next s.resetEvent

/-- The next move of HOST, taken off its list and made; with no move to come the block is idle, "and idle keeps all
state" (R275). -/
def issueNext (s : State) : Host.Outcome State Fault Refusal :=
  match s.pending with
  | [] => .next s
  | m :: rest => hostMove m (s.withPending rest)

/-- The write to CMD that issues a word; bits 31:8 are ignored (R43). -/
def commandWrite (c : Nat) : HostMove := .regWrite cmdNumber (BitVec.ofNat 32 c)

end Sys2Proof.Machine
end

