-- ==== Sys2Proof/Machine/Step.lean ====
section
/-! DEFINITION. One step of the machine: HOST's next primitive, and with a write to CMD the whole command
(spec/20_memory.md R72). There is no program counter and no fetch from a memory (spec/10_state.md R37); the place the next
command word comes from is the write to CMD that HOST issues next (log 1). -/

namespace Sys2Proof.Machine

/-- One atomic step (R70, R72). -/
def step (s : State) : Host.Outcome State Fault Refusal := issueNext s

/-- s with a write of the word w to CMD as HOST's next primitive, before those it was about to issue. -/
def State.withFetchWord (s : State) (nbits w : Nat) : State :=
  s.withPending (commandWrite (w % 2 ^ nbits) :: s.pending)

end Sys2Proof.Machine
end

