-- ==== Sys2Proof/Machine/Pseudo.lean ====
section
/-! DEFINITION. HOST's script syntax for commands (spec/30_encoding.md R98) and the pseudo-commands (R99): the fixed
sequence of primitives each stands for, given the state it is issued in. None is a command of the block. -/

namespace Sys2Proof.Machine

/-- A bare mnemonic: RegWrite(0x00, word) (R98). -/
def mnemonicMove (i : Instr) : HostMove := commandWrite (encode i).toNat

/-- COPYBUF: read all bytes of BUF, load them into VBUF (R99, R306). With BUF invalid there is nothing to copy and the
spec gives no sequence: none (log 18). -/
def copyBufMoves (s : State) : Option (List HostMove) :=
  s.mem.buf.map (fun b =>
    (List.range b.bytes.length).map (fun i => HostMove.planeRead .buf i) ++
      [HostMove.planeLoad .vbuf 0 0 0 (b.bytes.map BitVec.toNat)])

/-- QUANT: the quantizer CONVERT would choose (R99, R238); for another level count R99 gives none. -/
def quantCommand (s : State) : Option Instr :=
  if s.levelCount = 2 then some (if s.ditherOn then .quantDither else .quantThresh)
  else if s.levelCount = 4 then some .quantUniform
  else none

/-- PACK: the packer that fits QNT's level count (R99). -/
def packCommand (s : State) : Option Instr :=
  match s.mem.qnt with
  | none => none
  | some g => if g.levels = 2#8 then some .pack1 else if g.levels = 4#8 then some .pack2 else none

/-- The second half of VERIFY, issued in the state DETECT left: nothing after an error, else UNPACK.1 or UNPACK.2 as
VBPP says (R99). -/
def verifyCommand (s : State) : Option Instr :=
  if s.err = .ok then
    if s.vbpp = 1#2 then some .unpack1 else if s.vbpp = 2#2 then some .unpack2 else none
  else none

/-- The staged equivalent of CONVERT (R99): NORMALIZE; TOGRAY; [ADJUST only when dithered]; QUANT; PACK. -/
def stagedCommands (s : State) : Option (List Instr) :=
  if s.levelCount = 2 then
    some (if s.ditherOn then [.normalize, .toGray, .adjust, .quantDither, .pack1]
          else [.normalize, .toGray, .quantThresh, .pack1])
  else if s.levelCount = 4 then some [.normalize, .toGray, .quantUniform, .pack2]
  else none

/-- Commands issued one after the other, each on the state the one before left. -/
def execAll : List Instr → State → Host.Outcome State Fault Refusal
  | [], s => .next s
  | i :: rest, s =>
    match exec i s with
    | .next t => execAll rest t
    | .fault r => .fault r
    | .refused r => .refused r

end Sys2Proof.Machine
end

