-- ==== Sys2Proof/Safety.lean ====
section
/-! DEFINITION. What a good state and a good run are, in the terms the statements use. -/

namespace Sys2Proof

open Sys2Proof.Machine

/-- The invariant of the block: the planes in canonical form (spec/10_state.md R22 to R29), SHORT and LONG "never both
1" (R40), VBPP one of 0, 1, 2 (R49). -/
def Inv (s : State) : Prop :=
  s.mem.wf = true ∧ ¬(s.short = true ∧ s.long = true) ∧ s.vbpp.toNat ≤ 2

/-- k steps lead from s to t, every one of them available: none faults or is refused. -/
def Reaches : Nat → State → State → Prop
  | 0, s, t => t = s
  | k + 1, s, t => ∃ u, step s = .next u ∧ Reaches k u t

end Sys2Proof
end

