-- ==== Sys2Proof/Certificates/Slice0/Obligations.lean ====
section
/-! DEFINITION. The statements for the provers. Each docstring names the rules of spec/ it formalises. Where a statement
rests on a choice of the model, its docstring names the log entry. A record update `{ s with … }` on the right of a
`.next` says the frame as well: every field that is not named is unchanged. -/

namespace Sys2Proof.Claims

open Sys2Proof.Machine

/-- The planes a command writes or, on an error, invalidates: column "written by" of R21, and R231, R236, R262. -/
def writesPlane : Instr → Plane → Bool
  | .nop, _ => false
  | .detect, _ => false
  | .clear, p => p = .nrm || p = .pix || p = .qnt || p = .buf || p = .dec
  | .normalize, p => p = .nrm
  | .toGray, p => p = .pix
  | .adjust, p => p = .pix
  | .quantThresh, p => p = .qnt
  | .quantUniform, p => p = .qnt
  | .quantDither, p => p = .qnt
  | .pack1, p => p = .buf
  | .pack2, p => p = .buf
  | .unpack1, p => p = .dec
  | .unpack2, p => p = .dec
  | .convert, p => p = .nrm || p = .pix || p = .qnt || p = .buf

/-- Plane p of two memories reads the same: same validity, same attribute registers, same answer for every element
(R31, R32, R67). -/
def SamePlane (m m' : Memory) (p : Plane) : Prop :=
  m'.valid p = m.valid p ∧ m'.attributes p = m.attributes p ∧ ∀ i, m'.element p i = m.element p i

/-- The width of a read/write register, by its number; none for every other number (R42). -/
def writableWidth (n : Nat) : Option Nat :=
  if n = 2 ∨ n = 3 ∨ n = 7 ∨ n = 8 then some 16 else if n = 4 ∨ n = 6 then some 8 else if n = 5 then some 1 else none

/-- N_p, the number of elements of a valid plane (R60). -/
def elementCount (m : Memory) : Plane → Nat
  | .src => (m.src.map (fun g => g.w.toNat * g.h.toNat * g.ch.toNat)).getD 0
  | .nrm => (m.nrm.map (fun g => g.w.toNat * g.h.toNat * g.ch.toNat)).getD 0
  | .pix => (m.pix.map (fun g => g.w.toNat * g.h.toNat)).getD 0
  | .qnt => (m.qnt.map (fun g => g.w.toNat * g.h.toNat)).getD 0
  | .buf => (m.buf.map (fun b => b.bytes.length)).getD 0
  | .vbuf => (m.vbuf.map (fun l => l.length)).getD 0
  | .dec => (m.dec.map (fun g => g.w.toNat * g.h.toNat)).getD 0

/-- A source NORMALIZE accepts (R110, R112): some area and 1 or 3 channels. -/
def UsableSource (g : Image) : Prop := g.w.toNat ≠ 0 ∧ g.h.toNat ≠ 0 ∧ (g.ch = 1#8 ∨ g.ch = 3#8)

/-- The size of the resized image in whole-number arithmetic: the side that sets the scale gets the target itself, the
other is round-half-up of the exact product (R113, R114). -/
def resizedSize (ow oh tw th : Nat) : Nat × Nat :=
  if th * ow ≤ tw * oh then (tw, (2 * oh * tw + ow) / (2 * ow)) else ((2 * ow * th + oh) / (2 * oh), th)

/-- One visit of the error-diffusion pass on an unbounded work plane (R156, R159): the error of pixel (x, y), its work
value less the chosen output level, in four shares. NearestLevelIsNearestWithTiesUp fixes the choice and the levels. -/
def spread (n : Nat) (work : Nat → Nat → Rat) (x y : Nat) : Nat → Nat → Rat :=
  fun a b => work a b + (work x y - (nearestLevel n (work x y) : Rat) * levelStep n) *
    (if a = x + 1 ∧ b = y then 7 / 16
     else if a + 1 = x ∧ b = y + 1 then 3 / 16
     else if a = x ∧ b = y + 1 then 5 / 16
     else if a = x + 1 ∧ b = y + 1 then 1 / 16
     else 0)

/-- The work plane when the pass comes to pixel number i, row-major (R158, R161). -/
def workBefore (n : Nat) (g : Grid) : Nat → Nat → Nat → Rat
  | 0 => fun x y => ((g.cell x y).toNat : Rat)
  | i + 1 => spread n (workBefore n g i) (i % g.w.toNat) (i / g.w.toNat)

/-- The commands of a list run one after the other from s to t, none of them raising an error. -/
def RunsClean : List Instr → State → State → Prop
  | [], s, t => t = s
  | i :: rest, s, t => ∃ u, exec i s = .next u ∧ u.err = .ok ∧ RunsClean rest u t

end Sys2Proof.Claims

open Sys2Proof Sys2Proof.Machine Sys2Proof.Claims

/-! ### Encoding and the step -/

/-- R92, R96: a word decodes to a command exactly when it is that command's word of the table. -/
def Obligations.WordDecodesExactlyToItsCommand : Prop :=
  ∀ (c : CmdWord) (i : Instr), i.wellFormed = true → (decode c = .ok i ↔ c = encode i)

/-- R92: the fourteen words of the table, bit by bit, and what they are. -/
def Obligations.TableWordsDecodeAsWritten : Prop :=
  decode 0b00000000#8 = .ok .nop ∧ decode 0b00000001#8 = .ok .clear ∧ decode 0b00010000#8 = .ok .normalize ∧
  decode 0b00100000#8 = .ok .toGray ∧ decode 0b00110000#8 = .ok .adjust ∧ decode 0b01000001#8 = .ok .quantThresh ∧
  decode 0b01000010#8 = .ok .quantUniform ∧ decode 0b01000011#8 = .ok .quantDither ∧ decode 0b01010001#8 = .ok .pack1 ∧
  decode 0b01010010#8 = .ok .pack2 ∧ decode 0b01100001#8 = .ok .unpack1 ∧ decode 0b01100010#8 = .ok .unpack2 ∧
  decode 0b01110000#8 = .ok .detect ∧ decode 0b10000000#8 = .ok .convert

/-- R43: the write of v to register 0x00 executes the command v[7:0] as one step, and a read of the register gives 0
(that HOST's primitives stand in a list is the model's choice: log 1). -/
def Obligations.StepRunsTheCommandWrittenToCmd : Prop :=
  (∀ (s : State) (v : Word) (rest : List HostMove) (i : Instr), s.pending = .regWrite 0x00#8 v :: rest →
    decode (v.extractLsb' 0 8) = .ok i → i.wellFormed = true → step s = exec i { s with pending := rest }) ∧
  (∀ s : State, s.readReg 0x00#8 = 0#32)

/-- R258: a word that is none of the fourteen makes ERR 6 and changes nothing else (that HOST's primitives stand in a list
is the model's choice: log 1). -/
def Obligations.IllegalWordTakesIllegalCommand : Prop :=
  ∀ (s : State) (v : Word) (rest : List HostMove), s.pending = .regWrite 0x00#8 v :: rest →
    (∀ i : Instr, v.extractLsb' 0 8 ≠ encode i) →
    step s = .next { s with pending := rest, err := .illegalCommand } ∧ Err.illegalCommand.code = 6#4

/-- R95: how many words are illegal, and that every one of the listed ranges is. -/
def Obligations.TwoHundredFortyTwoWordsAreIllegal : Prop :=
  ((List.range 256).filter (fun c => (decode (BitVec.ofNat 8 c)).toOption.isNone)).length = 242 ∧
  ∀ c : CmdWord, (0x02 ≤ c.toNat ∧ c.toNat ≤ 0x0F) ∨ (0x11 ≤ c.toNat ∧ c.toNat ≤ 0x1F) ∨ c.toNat = 0x40 ∨
    (0x44 ≤ c.toNat ∧ c.toNat ≤ 0x4F) ∨ c.toNat = 0x50 ∨ (0x53 ≤ c.toNat ∧ c.toNat ≤ 0x5F) ∨ c.toNat = 0x60 ∨
    (0x63 ≤ c.toNat ∧ c.toNat ≤ 0x6F) ∨ (0x71 ≤ c.toNat ∧ c.toNat ≤ 0x7F) ∨ 0x81 ≤ c.toNat →
    ∀ i, decode c ≠ .ok i

/-- R275, R37: with no move of HOST to come, the block is idle and keeps all state (that HOST's moves stand in a list is
the model's choice: log 1). -/
def Obligations.IdleBlockKeepsAllState : Prop :=
  ∀ s : State, s.pending = [] → step s = .next s

/-- R310, U17: every command completes with a next state, whatever the state. -/
def Obligations.EveryCommandCompletes : Prop :=
  ∀ (i : Instr) (s : State), ∃ t, exec i s = .next t

/-! ### Registers -/

/-- R42, R66: a write to a number other than CMD's stores the low bits of a read/write register, and every register
reads afterwards as R42 says; nothing but the configuration changes (that HOST's primitives stand in a list is the
model's choice: log 1). -/
def Obligations.RegisterWriteStoresLowBitsOfThatRegisterOnly : Prop :=
  ∀ (s : State) (n : BitVec 8) (v : Word) (rest : List HostMove), s.pending = .regWrite n v :: rest → n ≠ 0x00#8 →
    ∃ c : ConfigRegs, step s = .next { s with pending := rest, cfg := c } ∧
      ∀ k : BitVec 8, (({ s with pending := rest, cfg := c } : State).readReg k).toNat =
        match writableWidth n.toNat with
        | some b => if k = n then v.toNat % 2 ^ b else (s.readReg k).toNat
        | none => (s.readReg k).toNat

/-- R66, R42, R51, R32: a register read returns the value of the register of that number, zero-extended, to HOST and
changes nothing else: that value for each of 0x00 to 0x0A, attribute k of plane p for 0x20 + 4·p + k, 0 for a reserved
number (that HOST's primitives and the values it is told stand in lists is the model's choice: log 1, 2). -/
def Obligations.RegisterReadReturnsItsValueAndChangesNothing : Prop :=
  ∀ (s : State) (n : BitVec 8) (rest : List HostMove), s.pending = .regRead n :: rest →
    ∃ v : Word, step s = .next { s with pending := rest, replies := s.replies ++ [.word v] } ∧ v = s.readReg n ∧
      (n = 0x00#8 → v.toNat = 0) ∧ (n = 0x01#8 → v = s.statusWord) ∧ (n = 0x02#8 → v.toNat = s.cfg.tw.toNat) ∧
      (n = 0x03#8 → v.toNat = s.cfg.th.toNat) ∧ (n = 0x04#8 → v.toNat = s.cfg.levels.toNat) ∧
      (n = 0x05#8 → v.toNat = s.cfg.dither.toNat) ∧ (n = 0x06#8 → v.toNat = s.cfg.thresh.toNat) ∧
      (n = 0x07#8 → v.toNat = s.cfg.bright.toNat) ∧ (n = 0x08#8 → v.toNat = s.cfg.contrast.toNat) ∧
      (n = 0x09#8 → v.toNat = s.vbpp.toNat) ∧ (n = 0x0A#8 → v = s.dcount) ∧
      ((0x0B ≤ n.toNat ∧ n.toNat ≤ 0x1F) ∨ 0x3C ≤ n.toNat → v.toNat = 0) ∧
      (∀ p : Plane, n.toNat = 0x20 + 4 * planeNumber p → v.toNat = (s.mem.attributes p).w.toNat) ∧
      (∀ p : Plane, n.toNat = 0x20 + 4 * planeNumber p + 1 → v.toNat = (s.mem.attributes p).h.toNat) ∧
      (∀ p : Plane, n.toNat = 0x20 + 4 * planeNumber p + 2 → v.toNat = (s.mem.attributes p).aux.toNat) ∧
      (∀ p : Plane, n.toNat = 0x20 + 4 * planeNumber p + 3 → v = (s.mem.attributes p).len)

/-- R51: reserved numbers read 0 and ignore writes; bits of a written word above the register's width are ignored, and
bits above the width read 0. -/
def Obligations.ReservedRegistersAndBitsReadZeroAndIgnoreWrites : Prop :=
  (∀ (s : State) (n : BitVec 8), (0x0B ≤ n.toNat ∧ n.toNat ≤ 0x1F) ∨ 0x3C ≤ n.toNat →
    s.readReg n = 0#32 ∧ ∀ v : Word, s.writeReg n v = s) ∧
  (∀ (s : State) (n : BitVec 8) (b : Nat), writableWidth n.toNat = some b →
    (s.readReg n).toNat < 2 ^ b ∧
    ∀ v v' : Word, v.toNat % 2 ^ b = v'.toNat % 2 ^ b → s.writeReg n v = s.writeReg n v') ∧
  (∀ s : State, s.readReg 0x00#8 = 0#32 ∧ (s.readReg 0x09#8).toNat < 2 ^ 2) ∧
  (∀ (s : State) (p : Plane) (k : Nat), k < 4 →
    (s.readReg (BitVec.ofNat 8 (0x20 + 4 * planeNumber p + k))).toNat < 2 ^ (if k < 2 then 16 else if k = 2 then 8 else 32))

/-- R38: the fields of STATUS, bit by bit. -/
def Obligations.StatusWordHasTheFieldsOfItsTable : Prop :=
  ∀ s : State,
    (s.readReg 0x01#8).extractLsb' 0 4 = s.err.code ∧
    (s.readReg 0x01#8).getLsbD 4 = s.short ∧ (s.readReg 0x01#8).getLsbD 5 = s.long ∧
    (s.readReg 0x01#8).getLsbD 6 = false ∧ (s.readReg 0x01#8).getLsbD 7 = false ∧
    (∀ p : Plane, (s.readReg 0x01#8).getLsbD (8 + planeNumber p) = s.mem.valid p) ∧
    (∀ i, 15 ≤ i → (s.readReg 0x01#8).getLsbD i = false)

/-- R250: the codes of the errors; the codes 7 to 15 are never written. -/
def Obligations.ErrorCodesAreThoseOfTheTable : Prop :=
  Err.ok.code = 0#4 ∧ Err.imageLoad.code = 1#4 ∧ Err.unsupportedLevels.code = 2#4 ∧ Err.sizeMismatch.code = 3#4 ∧
  Err.sequence.code = 4#4 ∧ Err.config.code = 5#4 ∧ Err.illegalCommand.code = 6#4 ∧ ∀ e : Err, e.code.toNat < 7

/-- R32: register 0x20 + 4·p + k is attribute k of plane p: w, h, aux, len; 0 while the plane is invalid and for
attributes its kind lacks; writes to them are ignored. -/
def Obligations.AttributeRegistersShowThePlanes : Prop :=
  ∀ s : State,
    (∀ (p : Plane) (k : Nat), k < 4 → s.mem.valid p = false →
      s.readReg (BitVec.ofNat 8 (0x20 + 4 * planeNumber p + k)) = 0#32) ∧
    (∀ (p : Plane) (k : Nat) (v : Word), k < 4 → s.writeReg (BitVec.ofNat 8 (0x20 + 4 * planeNumber p + k)) v = s) ∧
    (∀ g, s.mem.src = some g → (s.readReg 0x20#8).toNat = g.w.toNat ∧ (s.readReg 0x21#8).toNat = g.h.toNat ∧
      (s.readReg 0x22#8).toNat = g.ch.toNat ∧ s.readReg 0x23#8 = 0#32) ∧
    (∀ g, s.mem.nrm = some g → (s.readReg 0x24#8).toNat = g.w.toNat ∧ (s.readReg 0x25#8).toNat = g.h.toNat ∧
      (s.readReg 0x26#8).toNat = g.ch.toNat ∧ s.readReg 0x27#8 = 0#32) ∧
    (∀ g, s.mem.pix = some g → (s.readReg 0x28#8).toNat = g.w.toNat ∧ (s.readReg 0x29#8).toNat = g.h.toNat ∧
      s.readReg 0x2A#8 = 0#32 ∧ s.readReg 0x2B#8 = 0#32) ∧
    (∀ g, s.mem.qnt = some g → (s.readReg 0x2C#8).toNat = g.w.toNat ∧ (s.readReg 0x2D#8).toNat = g.h.toNat ∧
      (s.readReg 0x2E#8).toNat = g.levels.toNat ∧ s.readReg 0x2F#8 = 0#32) ∧
    (∀ b, s.mem.buf = some b → (s.readReg 0x30#8).toNat = b.w.toNat ∧ (s.readReg 0x31#8).toNat = b.h.toNat ∧
      (s.readReg 0x32#8).toNat = b.bpp.toNat ∧ s.readReg 0x33#8 = BitVec.ofNat 32 b.bytes.length) ∧
    (∀ l, s.mem.vbuf = some l → s.readReg 0x34#8 = 0#32 ∧ s.readReg 0x35#8 = 0#32 ∧ s.readReg 0x36#8 = 0#32 ∧
      s.readReg 0x37#8 = BitVec.ofNat 32 l.length) ∧
    (∀ g, s.mem.dec = some g → (s.readReg 0x38#8).toNat = g.w.toNat ∧ (s.readReg 0x39#8).toNat = g.h.toNat ∧
      s.readReg 0x3A#8 = 0#32 ∧ s.readReg 0x3B#8 = 0#32)

/-! ### Reset and the invariant -/

/-- R290, R55: the reset event: every plane invalid, STATUS, VBPP, DCOUNT 0, the configuration some value (which one the
statement leaves open; HOST's own lists, which stay, and the draw counter are the model's: log 1, 2, 4). -/
def Obligations.ResetEventLeavesTheStateOfTheResetTable : Prop :=
  ∀ (s : State) (rest : List HostMove), s.pending = .reset :: rest →
    ∃ (c : ConfigRegs) (t : State), step s = .next t ∧
      t = { mem := { src := none, nrm := none, pix := none, qnt := none, buf := none, vbuf := none, dec := none },
            cfg := c, err := .ok, short := false, long := false, vbpp := 0#2, dcount := 0#32, pending := rest,
            replies := s.replies, resets := s.resets + 1 } ∧
      t.readReg 0x01#8 = 0#32 ∧ ∀ p i, t.mem.element p i = .error .planeInvalid

/-- The invariant holds right after reset, whatever the configuration registers hold (R55; that State.reset holds zeros
there is the model's choice: log 3). -/
def Obligations.ResetMeetsTheInvariant : Prop :=
  Inv State.reset ∧ ∀ c : ConfigRegs, Inv (State.resetWith c)

/-- R22 to R29, R40, R49: from every state that meets the invariant (every valid plane in the form its rule gives it,
SHORT and LONG never both 1, VBPP 0, 1 or 2), every step, of HOST or of ENGINE, leads to one that meets it. -/
def Obligations.EveryStepKeepsTheInvariant : Prop :=
  ∀ s t : State, Inv s → step s = .next t → Inv t

/-! ### The plane port -/

/-- R67, R60: a read of an invalid plane, or at or beyond N_p, is refused; a read inside a valid plane other than DEC
answers a value; no read changes the block (HOST's two lists and the outcome `refused` are the model's form:
log 1, 2, 9). -/
def Obligations.PlaneReadIsRefusedOutsideAndAnsweredInside : Prop :=
  ∀ (s : State) (p : Plane) (i : Nat) (rest : List HostMove), s.pending = .planeRead p i :: rest → Inv s →
    (s.mem.valid p = false → step s = .refused .planeInvalid) ∧
    (s.mem.valid p = true → elementCount s.mem p ≤ i → step s = .refused .indexOutOfRange) ∧
    (s.mem.valid p = true → i < elementCount s.mem p → p ≠ .dec →
      ∃ v, step s = .next { s with pending := rest, replies := s.replies ++ [.element v] })

/-- R61, R67: which element a read of any of the seven planes answers: row-major, channels adjacent, a level
zero-extended; a DEC cell without a value refuses (R206) (HOST's two lists, a DEC cell that holds no value and the outcome
`refused` are the model's form: log 1, 2, 7, 9). -/
def Obligations.PlaneReadAnswersTheRowMajorElement : Prop :=
  ∀ (s : State) (p : Plane) (i : Nat) (rest : List HostMove), s.pending = .planeRead p i :: rest → Inv s →
    (∀ g x y c, p = .src → s.mem.src = some g → x < g.w.toNat → y < g.h.toNat → c < g.ch.toNat →
      i = (y * g.w.toNat + x) * g.ch.toNat + c →
      step s = .next { s with pending := rest, replies := s.replies ++ [.element (g.sample x y c)] }) ∧
    (∀ g x y c, p = .nrm → s.mem.nrm = some g → x < g.w.toNat → y < g.h.toNat → c < g.ch.toNat →
      i = (y * g.w.toNat + x) * g.ch.toNat + c →
      step s = .next { s with pending := rest, replies := s.replies ++ [.element (g.sample x y c)] }) ∧
    (∀ g x y, p = .pix → s.mem.pix = some g → x < g.w.toNat → y < g.h.toNat → i = y * g.w.toNat + x →
      step s = .next { s with pending := rest, replies := s.replies ++ [.element (g.cell x y)] }) ∧
    (∀ g x y, p = .qnt → s.mem.qnt = some g → x < g.w.toNat → y < g.h.toNat → i = y * g.w.toNat + x →
      step s = .next { s with pending := rest, replies := s.replies ++ [.element ((g.cell x y).setWidth 8)] }) ∧
    (∀ b, p = .buf → s.mem.buf = some b → i < b.bytes.length →
      step s = .next { s with pending := rest, replies := s.replies ++ [.element (b.byte i)] }) ∧
    (∀ l, p = .vbuf → s.mem.vbuf = some l → i < l.length →
      step s = .next { s with pending := rest, replies := s.replies ++ [.element (l.getD i 0)] }) ∧
    (∀ g x y v, p = .dec → s.mem.dec = some g → x < g.w.toNat → y < g.h.toNat → i = y * g.w.toNat + x →
      g.cell x y = some v →
      step s = .next { s with pending := rest, replies := s.replies ++ [.element v] }) ∧
    (∀ g x y, p = .dec → s.mem.dec = some g → x < g.w.toNat → y < g.h.toNat → i = y * g.w.toNat + x →
      g.cell x y = none → step s = .refused .cellHoldsNoValue)

/-- R68: which loads and drops are allowed, what an allowed one leaves, and that one that breaks a precondition, or names
another plane, is refused (that HOST's primitives stand in a list, and that a refused one ends in the outcome `refused`,
is the model's form: log 1, 9). -/
def Obligations.PlaneLoadAndDropObeyTheirPreconditions : Prop :=
  ∀ (s : State) (rest : List HostMove) (w h aux : Nat) (data : List Nat),
    (s.pending = .planeLoad .src w h aux data :: rest →
      ((w ≤ 65535 ∧ h ≤ 65535 ∧ aux ≤ 255 ∧ data.length = w * h * aux ∧ ∀ v ∈ data, v ≤ 255) →
        step s = .next { s with pending := rest, mem := { s.mem with
          src := some (Image.mk (BitVec.ofNat 16 w) (BitVec.ofNat 16 h) (BitVec.ofNat 8 aux) (data.map (BitVec.ofNat 8))) } }) ∧
      (¬(w ≤ 65535 ∧ h ≤ 65535 ∧ aux ≤ 255 ∧ data.length = w * h * aux ∧ ∀ v ∈ data, v ≤ 255) →
        step s = .refused .loadPrecondition)) ∧
    (s.pending = .planeLoad .nrm w h aux data :: rest →
      ((1 ≤ w ∧ w ≤ 65535 ∧ 1 ≤ h ∧ h ≤ 65535 ∧ (aux = 1 ∨ aux = 3) ∧ data.length = w * h * aux ∧ ∀ v ∈ data, v ≤ 255) →
        step s = .next { s with pending := rest, mem := { s.mem with
          nrm := some (Image.mk (BitVec.ofNat 16 w) (BitVec.ofNat 16 h) (BitVec.ofNat 8 aux) (data.map (BitVec.ofNat 8))) } }) ∧
      (¬(1 ≤ w ∧ w ≤ 65535 ∧ 1 ≤ h ∧ h ≤ 65535 ∧ (aux = 1 ∨ aux = 3) ∧ data.length = w * h * aux ∧ ∀ v ∈ data, v ≤ 255) →
        step s = .refused .loadPrecondition)) ∧
    (s.pending = .planeLoad .pix w h aux data :: rest →
      ((1 ≤ w ∧ w ≤ 65535 ∧ 1 ≤ h ∧ h ≤ 65535 ∧ data.length = w * h ∧ ∀ v ∈ data, v ≤ 255) →
        step s = .next { s with pending := rest, mem := { s.mem with
          pix := some (Grid.mk (BitVec.ofNat 16 w) (BitVec.ofNat 16 h) (data.map (BitVec.ofNat 8))) } }) ∧
      (¬(1 ≤ w ∧ w ≤ 65535 ∧ 1 ≤ h ∧ h ≤ 65535 ∧ data.length = w * h ∧ ∀ v ∈ data, v ≤ 255) →
        step s = .refused .loadPrecondition)) ∧
    (s.pending = .planeLoad .vbuf w h aux data :: rest →
      ((data.length ≤ 2 ^ 32 - 1 ∧ ∀ v ∈ data, v ≤ 255) →
        step s = .next { s with pending := rest, mem := { s.mem with vbuf := some (data.map (BitVec.ofNat 8)) } }) ∧
      (¬(data.length ≤ 2 ^ 32 - 1 ∧ ∀ v ∈ data, v ≤ 255) → step s = .refused .loadPrecondition)) ∧
    (∀ p : Plane, p = .qnt ∨ p = .buf ∨ p = .dec → s.pending = .planeLoad p w h aux data :: rest →
      step s = .refused .loadNotAllowed) ∧
    (s.pending = .planeDrop .src :: rest →
      step s = .next { s with pending := rest, mem := { s.mem with src := none } }) ∧
    (s.pending = .planeDrop .vbuf :: rest →
      step s = .next { s with pending := rest, mem := { s.mem with vbuf := none } }) ∧
    (∀ p : Plane, p ≠ .src → p ≠ .vbuf → s.pending = .planeDrop p :: rest → step s = .refused .dropNotAllowed)

/-- R68 against Sys2Proof/WellFormed.lean: a load or drop is available exactly when the move is well formed (that HOST's
primitives stand in a list, and that one not available ends in the outcome `refused`, is the model's form: log 1, 9). -/
def Obligations.LoadsAndDropsAreAvailableExactlyWhenWellFormed : Prop :=
  ∀ (s : State) (rest : List HostMove) (m : HostMove), s.pending = m :: rest →
    ((∃ p w h aux data, m = .planeLoad p w h aux data) ∨ ∃ p, m = .planeDrop p) →
    (m.wellFormed = true ↔ ∃ t, step s = .next t)

/-! ### Whole-machine rules -/

/-- R21, R262, R38, R49, R50, R240: what no command changes: the configuration registers, every plane that is not its own
(through validity, attributes and every element), SHORT, LONG and DCOUNT but by UNPACK and CLEAR, VBPP but by DETECT and
CLEAR, and the model's own fields, HOST's lists and the draw counter (log 1, 2, 4). -/
def Obligations.CommandsChangeOnlyWhatTheTableGivesThem : Prop :=
  ∀ (i : Instr) (s : State), ∃ t, exec i s = .next t ∧
    t.cfg = s.cfg ∧ t.pending = s.pending ∧ t.replies = s.replies ∧ t.resets = s.resets ∧
    (∀ p, writesPlane i p = false → SamePlane s.mem t.mem p) ∧
    (i ≠ .unpack1 → i ≠ .unpack2 → i ≠ .clear → t.short = s.short ∧ t.long = s.long ∧ t.dcount = s.dcount) ∧
    (i ≠ .detect → i ≠ .clear → t.vbpp = s.vbpp)

/-- R262: a command that raises an error invalidates its destination (for DETECT: VBPP <- 0) and changes nothing else,
the model's own fields, HOST's lists and the draw counter (log 1, 2, 4), among it. -/
def Obligations.RaisingInvalidatesTheDestinationOnly : Prop :=
  ∀ (i : Instr) (s t : State), i ≠ .nop → exec i s = .next t → t.err ≠ .ok →
    (∀ p, writesPlane i p = true → t.mem.valid p = false) ∧
    (∀ p, writesPlane i p = false → SamePlane s.mem t.mem p) ∧
    t.cfg = s.cfg ∧ t.short = s.short ∧ t.long = s.long ∧ t.dcount = s.dcount ∧
    t.vbpp = (if i = .detect then 0#2 else s.vbpp) ∧
    t.pending = s.pending ∧ t.replies = s.replies ∧ t.resets = s.resets

/-- R39: ERR is not sticky and no command reads it: but for NOP, a command's next state is the same whatever ERR held. -/
def Obligations.ErrIsOverwrittenByEveryCommandButNop : Prop :=
  ∀ (i : Instr) (s : State) (e : Err), i ≠ .nop → exec i { s with err := e } = exec i s

/-- R38, R49, R50, R205, R208, R231: SHORT, LONG, DCOUNT and VBPP are read by no command: what they held before changes
nothing in the outcome but those of the four that the command does not write, which stay as they were. CLEAR and an UNPACK
without error write SHORT, LONG and DCOUNT; CLEAR and DETECT write VBPP. HOST's lists and the draw counter are the model's
fields (log 1, 2, 4). -/
def Obligations.NoCommandReadsTheResultRegisters : Prop :=
  ∀ (i : Instr) (s : State) (sh lo : Bool) (d : Word) (v : BitVec 2),
    ∃ t t', exec i s = .next t ∧ exec i { s with short := sh, long := lo, dcount := d, vbpp := v } = .next t' ∧
      t'.mem = t.mem ∧ t'.err = t.err ∧ t'.cfg = t.cfg ∧
      t'.pending = t.pending ∧ t'.replies = t.replies ∧ t'.resets = t.resets ∧
      ((i = .clear ∨ ((i = .unpack1 ∨ i = .unpack2) ∧ t.err = .ok)) →
        t'.short = t.short ∧ t'.long = t.long ∧ t'.dcount = t.dcount) ∧
      (¬(i = .clear ∨ ((i = .unpack1 ∨ i = .unpack2) ∧ t.err = .ok)) →
        t.short = s.short ∧ t.long = s.long ∧ t.dcount = s.dcount ∧
        t'.short = sh ∧ t'.long = lo ∧ t'.dcount = d) ∧
      ((i = .clear ∨ i = .detect) → t'.vbpp = t.vbpp) ∧
      (¬(i = .clear ∨ i = .detect) → t.vbpp = s.vbpp ∧ t'.vbpp = v)

/-- R252: a command whose source plane is invalid (its earlier checks passed) raises SequenceError, code 4; an invalid SRC
never does. -/
def Obligations.MissingSourcePlaneRaisesSequenceError : Prop :=
  Err.sequence.code = 4#4 ∧ ∀ s : State,
    (s.mem.src = none → ∀ t, exec .normalize s = .next t ∨ exec .convert s = .next t → t.err ≠ .sequence) ∧
    (s.mem.nrm = none → exec .toGray s = .next { s with mem := { s.mem with pix := none }, err := .sequence }) ∧
    (s.mem.pix = none → exec .adjust s = .next { s with mem := { s.mem with pix := none }, err := .sequence }) ∧
    (s.mem.pix = none → s.cfg.levels = 2#8 →
      exec .quantThresh s = .next { s with mem := { s.mem with qnt := none }, err := .sequence }) ∧
    (s.mem.pix = none → s.cfg.levels = 4#8 →
      exec .quantUniform s = .next { s with mem := { s.mem with qnt := none }, err := .sequence }) ∧
    (s.mem.pix = none → s.cfg.levels = 2#8 ∨ s.cfg.levels = 4#8 →
      exec .quantDither s = .next { s with mem := { s.mem with qnt := none }, err := .sequence }) ∧
    (s.mem.qnt = none →
      exec .pack1 s = .next { s with mem := { s.mem with buf := none }, err := .sequence } ∧
      exec .pack2 s = .next { s with mem := { s.mem with buf := none }, err := .sequence }) ∧
    (s.mem.vbuf = none → s.cfg.tw ≠ 0#16 → s.cfg.th ≠ 0#16 →
      exec .unpack1 s = .next { s with mem := { s.mem with dec := none }, err := .sequence } ∧
      exec .unpack2 s = .next { s with mem := { s.mem with dec := none }, err := .sequence } ∧
      exec .detect s = .next { s with vbpp := 0#2, err := .sequence })

/-- R253: TW = 0 or TH = 0 at a command that uses the target size raises ConfigError, code 5, before any look at the data
(for CONVERT after the level check). -/
def Obligations.ZeroTargetSizeRaisesConfigError : Prop :=
  Err.config.code = 5#4 ∧ ∀ s : State, s.cfg.tw = 0#16 ∨ s.cfg.th = 0#16 →
    exec .normalize s = .next { s with mem := { s.mem with nrm := none }, err := .config } ∧
    exec .unpack1 s = .next { s with mem := { s.mem with dec := none }, err := .config } ∧
    exec .unpack2 s = .next { s with mem := { s.mem with dec := none }, err := .config } ∧
    exec .detect s = .next { s with vbpp := 0#2, err := .config } ∧
    (s.cfg.levels = 2#8 ∨ s.cfg.levels = 4#8 → exec .convert s =
      .next { s with mem := { s.mem with nrm := none, pix := none, qnt := none, buf := none }, err := .config })

/-! ### NOP, CLEAR -/

/-- R230: NOP, word 0x00, changes nothing, STATUS.ERR included. -/
def Obligations.NopChangesNothing : Prop :=
  decode 0x00#8 = .ok .nop ∧ ∀ s : State, exec .nop s = .next s

/-- R231: CLEAR, word 0x01, invalidates the five planes the block produces, zeroes SHORT, LONG, VBPP, DCOUNT and ERR, and
touches nothing else; on a freshly reset block it changes nothing. -/
def Obligations.ClearDiscardsEveryResult : Prop :=
  decode 0x01#8 = .ok .clear ∧
  (∀ c : ConfigRegs, exec .clear (State.resetWith c) = .next (State.resetWith c)) ∧
  ∀ s : State, exec .clear s = .next { s with
    mem := { src := s.mem.src, nrm := none, pix := none, qnt := none, buf := none, vbuf := s.mem.vbuf, dec := none },
    short := false, long := false, vbpp := 0#2, dcount := 0#32, err := .ok }

/-! ### NORMALIZE -/

/-- R110, R113, R114, R115: with a usable source and target, NORMALIZE completes; NRM is the target-sized window of the
resized image, whose size and offsets are whole-number arithmetic; nothing else changes. -/
def Obligations.NormalizeGivesTheCentreCropOfTheCoverFit : Prop :=
  ∀ (s : State) (g : Image), s.cfg.tw ≠ 0#16 → s.cfg.th ≠ 0#16 → s.mem.src = some g → UsableSource g →
    ∃ n : Image, exec .normalize s = .next { s with mem := { s.mem with nrm := some n }, err := .ok } ∧
      n.w = s.cfg.tw ∧ n.h = s.cfg.th ∧ n.ch = g.ch ∧
      n.data.length = s.cfg.tw.toNat * s.cfg.th.toNat * g.ch.toNat ∧
      ∀ x y c sw sh, x < s.cfg.tw.toNat → y < s.cfg.th.toNat → c < g.ch.toNat →
        (sw, sh) = resizedSize g.w.toNat g.h.toNat s.cfg.tw.toNat s.cfg.th.toNat →
        n.sample x y c =
          g.resample g.constants sw sh ((sw - s.cfg.tw.toNat) / 2 + x) ((sh - s.cfg.th.toNat) / 2 + y) c

/-- R117: the scaled image always covers the target, with equality on an axis; one offset is 0; the crop window never
leaves the resized image. -/
def Obligations.ScaledImageAlwaysCoversTheTarget : Prop :=
  ∀ ow oh tw th sw sh : Nat, 1 ≤ ow → 1 ≤ oh → 1 ≤ tw → 1 ≤ th →
    sw = scaledSide ow (coverScale ow oh tw th) → sh = scaledSide oh (coverScale ow oh tw th) →
    tw ≤ sw ∧ th ≤ sh ∧ (sw = tw ∨ sh = th) ∧ (cropOffset sw tw = 0 ∨ cropOffset sh th = 0) ∧
    (∀ x, x < tw → cropOffset sw tw + x < sw) ∧ (∀ y, y < th → cropOffset sh th + y < sh)

/-- R116 (P4), R110: a channel of the source whose samples are all v is all v in NRM. -/
def Obligations.ConstantChannelStaysConstantThroughNormalize : Prop :=
  ∀ (s : State) (g : Image) (c : Nat) (v : Byte), Inv s → s.cfg.tw ≠ 0#16 → s.cfg.th ≠ 0#16 → s.mem.src = some g →
    UsableSource g → c < g.ch.toNat → (∀ x y, x < g.w.toNat → y < g.h.toNat → g.sample x y c = v) →
    ∃ t n, exec .normalize s = .next t ∧ t.mem.nrm = some n ∧
      ∀ x y, x < s.cfg.tw.toNat → y < s.cfg.th.toNat → n.sample x y c = v

/-- R256, R112: an invalid source, one of zero area, or one with a channel count other than 1 or 3 raises ImageLoadError,
code 1, at NORMALIZE and CONVERT (their earlier checks passed). -/
def Obligations.UnusableSourceRaisesImageLoadError : Prop :=
  Err.imageLoad.code = 1#4 ∧ ∀ s : State, s.cfg.tw ≠ 0#16 → s.cfg.th ≠ 0#16 →
    (s.mem.src = none ∨ ∃ g, s.mem.src = some g ∧
      (g.w = 0#16 ∨ g.h = 0#16 ∨ (g.ch ≠ 1#8 ∧ g.ch ≠ 3#8))) →
    exec .normalize s = .next { s with mem := { s.mem with nrm := none }, err := .imageLoad } ∧
    (s.cfg.levels = 2#8 ∨ s.cfg.levels = 4#8 → exec .convert s =
      .next { s with mem := { s.mem with nrm := none, pix := none, qnt := none, buf := none }, err := .imageLoad })

/-! ### TOGRAY, ADJUST -/

/-- R131: for ch = 1, PIX has the same width, height and samples as NRM. -/
def Obligations.ToGrayCopiesAOneChannelImage : Prop :=
  ∀ (s : State) (n : Image), Inv s → s.mem.nrm = some n → n.ch = 1#8 →
    exec .toGray s =
      .next { s with mem := { s.mem with pix := some { w := n.w, h := n.h, cells := n.data } }, err := .ok }

/-- R130, R132: for a colour image every cell is LUMA of that pixel's three samples, and a gray pixel keeps its value
(L3); which LUMA the machine has is left open (log 6). -/
def Obligations.ToGrayReducesEachColourPixelByLuma : Prop :=
  ∀ (s : State) (n : Image), s.mem.nrm = some n → n.ch = 3#8 →
    ∃ p : Grid, exec .toGray s = .next { s with mem := { s.mem with pix := some p }, err := .ok } ∧
      p.w = n.w ∧ p.h = n.h ∧ p.cells.length = n.w.toNat * n.h.toNat ∧
      ∀ x y, x < n.w.toNat → y < n.h.toNat →
        p.cell x y = luma (n.sample x y 0) (n.sample x y 1) (n.sample x y 2) ∧
        (∀ v, n.sample x y 0 = v → n.sample x y 1 = v → n.sample x y 2 = v → p.cell x y = v)

/-- R133, R132: the spec's default LUMA, which never leaves 8 bits and keeps the grays; the formula is PRESUMED (log 6: the
spec has it from general knowledge). The third clause is the model's own form, a DESIGN CHOICE (log 6): the machine's
LUMA is that formula or one other function, as an open constant says. -/
def Obligations.DefaultLumaIsTheFixedPointFormula : Prop :=
  (∀ r g b : Byte, (lumaBt601 r g b).toNat =
    (19595 * r.toNat + 38470 * g.toNat + 7471 * b.toNat + 32768) / 65536) ∧
  (∀ v : Byte, lumaBt601 v v v = v) ∧
  (∀ r g b : Byte, luma r g b = match Config.lumaChoice with | .bt601 => lumaBt601 r g b | .other => lumaOther r g b)

/-- R136, R137, R138, R139: every cell is the old one with contrast, then brightness: the exact rational value rounded
down and clamped, twice. -/
def Obligations.AdjustAppliesContrastThenBrightnessExactly : Prop :=
  ∀ (s : State) (g : Grid), s.mem.pix = some g →
    ∃ p : Grid, exec .adjust s = .next { s with mem := { s.mem with pix := some p }, err := .ok } ∧
      p.w = g.w ∧ p.h = g.h ∧ p.cells.length = g.w.toNat * g.h.toNat ∧
      ∀ (x y : Nat) (u t : Int), x < g.w.toNat → y < g.h.toNat →
        u = max 0 (min 255 (128 + (((g.cell x y).toNat : Rat) - 128) * factorValue s.cfg.contrast).floor) →
        t = max 0 (min 255 ((u : Rat) * factorValue s.cfg.bright).floor) →
        ((p.cell x y).toNat : Int) = t

/-- R141: factors 1.0 leave the grid as it is; contrast 0 makes every cell 128; brightness 0 makes every cell 0. -/
def Obligations.AdjustCornerFactors : Prop :=
  ∀ (s : State) (g : Grid), Inv s → s.mem.pix = some g →
    (s.cfg.contrast = 0x0100#16 → s.cfg.bright = 0x0100#16 → exec .adjust s = .next { s with err := .ok }) ∧
    (s.cfg.contrast = 0#16 → s.cfg.bright = 0x0100#16 →
      exec .adjust s = .next { s with mem := { s.mem with
          pix := some (Grid.mk g.w g.h (List.replicate (g.w.toNat * g.h.toNat) 128#8)) }, err := .ok }) ∧
    (s.cfg.bright = 0#16 →
      exec .adjust s = .next { s with mem := { s.mem with
          pix := some (Grid.mk g.w g.h (List.replicate (g.w.toNat * g.h.toNat) 0#8)) }, err := .ok })

/-! ### QUANT -/

/-- R152: QUANT.THRESH, word 0x41: level 1 exactly where the intensity is above the threshold; UnsupportedLevelsError for
LEVELS other than 2, then SequenceError for an invalid PIX. -/
def Obligations.QuantThreshComparesWithTheThreshold : Prop :=
  decode 0x41#8 = .ok .quantThresh ∧
  (∀ s : State, s.cfg.levels ≠ 2#8 →
    exec .quantThresh s = .next { s with mem := { s.mem with qnt := none }, err := .unsupportedLevels }) ∧
  (∀ s : State, s.cfg.levels = 2#8 → s.mem.pix = none →
    exec .quantThresh s = .next { s with mem := { s.mem with qnt := none }, err := .sequence }) ∧
  ∀ (s : State) (g : Grid), s.cfg.levels = 2#8 → s.mem.pix = some g →
    ∃ q : QGrid, exec .quantThresh s = .next { s with mem := { s.mem with qnt := some q }, err := .ok } ∧
      q.w = g.w ∧ q.h = g.h ∧ q.levels = 2#8 ∧ q.cells.length = g.w.toNat * g.h.toNat ∧
      ∀ x y, x < g.w.toNat → y < g.h.toNat →
        (q.cell x y).toNat = if s.cfg.thresh.toNat < (g.cell x y).toNat then 1 else 0

/-- R154: QUANT.UNIFORM, word 0x42: the level is floor(intensity · 4 / 256), four buckets split at 64, 128, 192;
UnsupportedLevelsError for LEVELS other than 4, then SequenceError for an invalid PIX. -/
def Obligations.QuantUniformSplitsIntoFourBuckets : Prop :=
  decode 0x42#8 = .ok .quantUniform ∧
  (∀ s : State, s.cfg.levels ≠ 4#8 →
    exec .quantUniform s = .next { s with mem := { s.mem with qnt := none }, err := .unsupportedLevels }) ∧
  (∀ s : State, s.cfg.levels = 4#8 → s.mem.pix = none →
    exec .quantUniform s = .next { s with mem := { s.mem with qnt := none }, err := .sequence }) ∧
  ∀ (s : State) (g : Grid), s.cfg.levels = 4#8 → s.mem.pix = some g →
    ∃ q : QGrid, exec .quantUniform s = .next { s with mem := { s.mem with qnt := some q }, err := .ok } ∧
      q.w = g.w ∧ q.h = g.h ∧ q.levels = 4#8 ∧ q.cells.length = g.w.toNat * g.h.toNat ∧
      ∀ x y, x < g.w.toNat → y < g.h.toNat →
        (q.cell x y).toNat = (g.cell x y).toNat * 4 / 256 ∧
        ((q.cell x y).toNat = 0 ↔ (g.cell x y).toNat < 64) ∧
        ((q.cell x y).toNat ≤ 1 ↔ (g.cell x y).toNat < 128) ∧ ((q.cell x y).toNat ≤ 2 ↔ (g.cell x y).toNat < 192)

/-- R156, R158 to R163: every level QUANT.DITHER writes is the nearest level of the work value that the row-major pass of
exact error diffusion leaves at that pixel, on an unbounded work plane (so that a share past the border is lost). -/
def Obligations.QuantDitherIsExactErrorDiffusion : Prop :=
  ∀ (s : State) (g : Grid) (n : Nat), n = 2 ∨ n = 4 → s.cfg.levels = BitVec.ofNat 8 n → s.mem.pix = some g →
    ∃ q : QGrid, exec .quantDither s = .next { s with mem := { s.mem with qnt := some q }, err := .ok } ∧
      q.w = g.w ∧ q.h = g.h ∧ q.levels = s.cfg.levels ∧ q.cells.length = g.w.toNat * g.h.toNat ∧
      ∀ x y, x < g.w.toNat → y < g.h.toNat →
        ((q.cell x y).toNat : Int) = nearestLevel n (workBefore n g (y * g.w.toNat + x) x y)

/-- R157: the output levels are 255 apart for n = 2 and 85 for n = 4; the level is one of the n, no other is nearer, a tie goes to the higher, and the cut points are 127.5 for n = 2
and 42.5, 127.5, 212.5 for n = 4. -/
def Obligations.NearestLevelIsNearestWithTiesUp : Prop :=
  (levelStep 2 = 255 ∧ levelStep 4 = 85) ∧
  (∀ (n : Nat) (old : Rat) (k : Int), n = 2 ∨ n = 4 → k = nearestLevel n old →
    0 ≤ k ∧ k < n ∧
    ∀ j : Int, 0 ≤ j → j < n →
      |old - k * levelStep n| ≤ |old - j * levelStep n| ∧
      (k < j → |old - k * levelStep n| < |old - j * levelStep n|)) ∧
  (∀ old : Rat, nearestLevel 2 old = if 255 / 2 ≤ old then 1 else 0) ∧
  (∀ old : Rat, nearestLevel 4 old =
    if 425 / 2 ≤ old then 3 else if 255 / 2 ≤ old then 2 else if 85 / 2 ≤ old then 1 else 0)

/-- R164, R160: at a pixel with all four neighbours inside the grid the delivered shares sum to the error exactly; in the
last column 8/16, in the first column 13/16 of it, on the last row 7/16, at the last pixel none. -/
def Obligations.DeliveredErrorSharesSumAsTheBorderSays : Prop :=
  ∀ (w h x y : Nat) (e : Rat) (work : List Rat), work.length = w * h → x < w → y < h →
    (diffuse w h x y e work).length = w * h ∧
    (1 ≤ x → x + 1 < w → y + 1 < h → (diffuse w h x y e work).sum = work.sum + e) ∧
    (1 ≤ x → x + 1 = w → y + 1 < h → (diffuse w h x y e work).sum = work.sum + e * (8 / 16)) ∧
    (x = 0 → x + 1 < w → y + 1 < h → (diffuse w h x y e work).sum = work.sum + e * (13 / 16)) ∧
    (x = 0 → x + 1 = w → y + 1 < h → (diffuse w h x y e work).sum = work.sum + e * (5 / 16)) ∧
    (x + 1 < w → y + 1 = h → (diffuse w h x y e work).sum = work.sum + e * (7 / 16)) ∧
    (x + 1 = w → y + 1 = h → diffuse w h x y e work = work)

/-- R150, R151, R261: which level counts each QUANT command refuses with UnsupportedLevelsError, before PIX is looked
at. -/
def Obligations.QuantRefusesUnsupportedLevelCounts : Prop :=
  ∀ s : State,
    (s.cfg.levels ≠ 2#8 →
      exec .quantThresh s = .next { s with mem := { s.mem with qnt := none }, err := .unsupportedLevels }) ∧
    (s.cfg.levels ≠ 4#8 →
      exec .quantUniform s = .next { s with mem := { s.mem with qnt := none }, err := .unsupportedLevels }) ∧
    (s.cfg.levels ≠ 2#8 → s.cfg.levels ≠ 4#8 →
      exec .quantDither s = .next { s with mem := { s.mem with qnt := none }, err := .unsupportedLevels })

/-! ### PACK -/

/-- R182, R62, R63, R64, R185, R186: PACK.1's bytes: pixel (x, y) is bit 7 - x mod 8 of byte y·ceil(w/8) + x div 8, set
exactly for level 0; every position past the width is 0. -/
def Obligations.Pack1WritesOneBlackBitPerPixel : Prop :=
  ∀ (s : State) (g : QGrid), s.mem.qnt = some g → g.levels = 2#8 →
    ∃ b : PackedBuf, exec .pack1 s = .next { s with mem := { s.mem with buf := some b }, err := .ok } ∧
      b.w = g.w ∧ b.h = g.h ∧ b.bpp = 1#8 ∧ b.bytes.length = (g.w.toNat + 7) / 8 * g.h.toNat ∧
      (∀ x y, x < g.w.toNat → y < g.h.toNat →
        (b.byte (y * ((g.w.toNat + 7) / 8) + x / 8)).getLsbD (7 - x % 8) = decide (g.cell x y = 0#2)) ∧
      (∀ j y k, j < (g.w.toNat + 7) / 8 → y < g.h.toNat → k < 8 → g.w.toNat ≤ 8 * j + k →
        (b.byte (y * ((g.w.toNat + 7) / 8) + j)).getLsbD (7 - k) = false)

/-- R183, R62, R63, R64, R185, R186: PACK.2's bytes: pixel (x, y) is the two bits from 6 - 2·(x mod 4) up of byte
y·ceil(w/4) + x div 4, the level itself; every position past the width is 0. -/
def Obligations.Pack2WritesTheLevelInTwoBits : Prop :=
  ∀ (s : State) (g : QGrid), s.mem.qnt = some g → g.levels = 4#8 →
    ∃ b : PackedBuf, exec .pack2 s = .next { s with mem := { s.mem with buf := some b }, err := .ok } ∧
      b.w = g.w ∧ b.h = g.h ∧ b.bpp = 2#8 ∧ b.bytes.length = (g.w.toNat + 3) / 4 * g.h.toNat ∧
      (∀ x y, x < g.w.toNat → y < g.h.toNat →
        (b.byte (y * ((g.w.toNat + 3) / 4) + x / 4)).toNat / 2 ^ (6 - 2 * (x % 4)) % 4 = (g.cell x y).toNat) ∧
      (∀ j y k, j < (g.w.toNat + 3) / 4 → y < g.h.toNat → k < 4 → g.w.toNat ≤ 4 * j + k →
        (b.byte (y * ((g.w.toNat + 3) / 4) + j)).toNat / 2 ^ (6 - 2 * k) % 4 = 0)

/-- R184: a grid whose level count does not match the format is refused with UnsupportedLevelsError, code 2. -/
def Obligations.PackRefusesAGridOfTheOtherFormat : Prop :=
  Err.unsupportedLevels.code = 2#4 ∧ ∀ (s : State) (g : QGrid), s.mem.qnt = some g →
    (g.levels ≠ 2#8 → exec .pack1 s = .next { s with mem := { s.mem with buf := none }, err := .unsupportedLevels }) ∧
    (g.levels ≠ 4#8 → exec .pack2 s = .next { s with mem := { s.mem with buf := none }, err := .unsupportedLevels })

/-! ### UNPACK, DETECT -/

/-- R201, R202, R204, R205, R206: UNPACK.1 with a target and a buffer: each pixel from its bit, a missing byte by the
policy (which one is left open: log 7), SHORT, LONG and DCOUNT from the length. -/
def Obligations.Unpack1DecodesEachBit : Prop :=
  ∀ (s : State) (l : List Byte), s.cfg.tw ≠ 0#16 → s.cfg.th ≠ 0#16 → s.mem.vbuf = some l →
    ∃ d : DecGrid, exec .unpack1 s = .next { s with
        mem := { s.mem with dec := some d }, err := .ok,
        short := decide (l.length < (s.cfg.tw.toNat + 7) / 8 * s.cfg.th.toNat),
        long := decide ((s.cfg.tw.toNat + 7) / 8 * s.cfg.th.toNat < l.length),
        dcount := BitVec.ofNat 32 (min l.length ((s.cfg.tw.toNat + 7) / 8 * s.cfg.th.toNat)) } ∧
      d.w = s.cfg.tw ∧ d.h = s.cfg.th ∧ d.cells.length = s.cfg.tw.toNat * s.cfg.th.toNat ∧
      ∀ x y, x < s.cfg.tw.toNat → y < s.cfg.th.toNat →
        (∀ b, l[y * ((s.cfg.tw.toNat + 7) / 8) + x / 8]? = some b →
          d.cell x y = some (if b.getLsbD (7 - x % 8) then 0#8 else 255#8)) ∧
        (l.length ≤ y * ((s.cfg.tw.toNat + 7) / 8) + x / 8 →
          d.cell x y = match Config.shortPolicy with
            | .zeroFillBytes => some 255#8
            | .stopEarly => none)

/-- R201, R203, R204, R205, R206: UNPACK.2 with a target and a buffer: each pixel 85 times its two bits, a missing byte by
the policy (which one is left open: log 7), SHORT, LONG and DCOUNT from the length. -/
def Obligations.Unpack2DecodesEachLevel : Prop :=
  ∀ (s : State) (l : List Byte), s.cfg.tw ≠ 0#16 → s.cfg.th ≠ 0#16 → s.mem.vbuf = some l →
    ∃ d : DecGrid, exec .unpack2 s = .next { s with
        mem := { s.mem with dec := some d }, err := .ok,
        short := decide (l.length < (s.cfg.tw.toNat + 3) / 4 * s.cfg.th.toNat),
        long := decide ((s.cfg.tw.toNat + 3) / 4 * s.cfg.th.toNat < l.length),
        dcount := BitVec.ofNat 32 (min l.length ((s.cfg.tw.toNat + 3) / 4 * s.cfg.th.toNat)) } ∧
      d.w = s.cfg.tw ∧ d.h = s.cfg.th ∧ d.cells.length = s.cfg.tw.toNat * s.cfg.th.toNat ∧
      ∀ x y, x < s.cfg.tw.toNat → y < s.cfg.th.toNat →
        (∀ b, l[y * ((s.cfg.tw.toNat + 3) / 4) + x / 4]? = some b →
          ∃ v, d.cell x y = some v ∧ v.toNat = 85 * (b.toNat / 2 ^ (6 - 2 * (x % 4)) % 4)) ∧
        (l.length ≤ y * ((s.cfg.tw.toNat + 3) / 4) + x / 4 →
          d.cell x y = match Config.shortPolicy with
            | .zeroFillBytes => some 0#8
            | .stopEarly => none)

/-- R207: what PACK.b wrote from a grid of the target's size, UNPACK.b turns back into 255·q (b = 1) or 85·q (b = 2) at
every pixel, with SHORT = LONG = 0 and every byte consumed. -/
def Obligations.PackThenUnpackRestoresEveryLevel : Prop :=
  ∀ (s s' : State) (g : QGrid) (n : Nat) (pack unpack : Instr),
    Inv s → s.mem.qnt = some g → g.levels = BitVec.ofNat 8 n →
    ((n = 2 ∧ pack = .pack1 ∧ unpack = .unpack1) ∨ (n = 4 ∧ pack = .pack2 ∧ unpack = .unpack2)) →
    s'.cfg.tw = g.w → s'.cfg.th = g.h →
    ∃ t b, exec pack s = .next t ∧ t.mem.buf = some b ∧
      (s'.mem.vbuf = some b.bytes →
        ∃ u d, exec unpack s' = .next u ∧ u.mem.dec = some d ∧ u.short = false ∧ u.long = false ∧
          u.dcount.toNat = b.bytes.length ∧ u.err = .ok ∧
          ∀ x y, x < g.w.toNat → y < g.h.toNat →
            ∃ v, d.cell x y = some v ∧ v.toNat = (g.cell x y).toNat * 255 / (n - 1))

/-- R207, the source's pair of round-trip properties: quantizing, packing, copying and unpacking gives level·85 of the
uniform level of each intensity, and for the threshold mode 255 where the intensity is above the threshold, else 0. -/
def Obligations.QuantizePackUnpackGivesTheSourcesRoundTrips : Prop :=
  ∀ (s s' : State) (g : Grid), Inv s → s.mem.pix = some g → s'.cfg.tw = g.w → s'.cfg.th = g.h →
    (s.cfg.levels = 4#8 → ∃ t b, execAll [.quantUniform, .pack2] s = .next t ∧ t.mem.buf = some b ∧
      (s'.mem.vbuf = some b.bytes → ∃ u d, exec .unpack2 s' = .next u ∧ u.mem.dec = some d ∧
        ∀ x y, x < g.w.toNat → y < g.h.toNat →
          ∃ v, d.cell x y = some v ∧ v.toNat = 85 * ((g.cell x y).toNat * 4 / 256))) ∧
    (s.cfg.levels = 2#8 → ∃ t b, execAll [.quantThresh, .pack1] s = .next t ∧ t.mem.buf = some b ∧
      (s'.mem.vbuf = some b.bytes → ∃ u d, exec .unpack1 s' = .next u ∧ u.mem.dec = some d ∧
        ∀ x y, x < g.w.toNat → y < g.h.toNat →
          d.cell x y = some (if s.cfg.thresh.toNat < (g.cell x y).toNat then 255#8 else 0#8)))

/-- R208: DETECT, word 0x70: its answer from the buffer's length alone, SizeMismatchError, code 3, for any other length;
before that ConfigError, then SequenceError; VBPP is 0 on every error. -/
def Obligations.DetectChoosesTheFormatFromTheLength : Prop :=
  decode 0x70#8 = .ok .detect ∧ Err.sizeMismatch.code = 3#4 ∧
  (∀ s : State, s.cfg.tw = 0#16 ∨ s.cfg.th = 0#16 → exec .detect s = .next { s with vbpp := 0#2, err := .config }) ∧
  (∀ s : State, s.cfg.tw ≠ 0#16 → s.cfg.th ≠ 0#16 → s.mem.vbuf = none →
    exec .detect s = .next { s with vbpp := 0#2, err := .sequence }) ∧
  ∀ (s : State) (l : List Byte), s.cfg.tw ≠ 0#16 → s.cfg.th ≠ 0#16 → s.mem.vbuf = some l →
    (l.length = (s.cfg.tw.toNat + 7) / 8 * s.cfg.th.toNat →
      exec .detect s = .next { s with vbpp := 1#2, err := .ok }) ∧
    (l.length ≠ (s.cfg.tw.toNat + 7) / 8 * s.cfg.th.toNat → l.length = (s.cfg.tw.toNat + 3) / 4 * s.cfg.th.toNat →
      exec .detect s = .next { s with vbpp := 2#2, err := .ok }) ∧
    (l.length ≠ (s.cfg.tw.toNat + 7) / 8 * s.cfg.th.toNat → l.length ≠ (s.cfg.tw.toNat + 3) / 4 * s.cfg.th.toNat →
      exec .detect s = .next { s with vbpp := 0#2, err := .sizeMismatch })

/-- R209: the two sizes are equal exactly for widths up to 4, where DETECT answers 1; for wider targets the 2-bit size
is answered 2. -/
def Obligations.DetectIsAmbiguousExactlyForNarrowTargets : Prop :=
  ∀ (s : State) (l : List Byte), s.cfg.tw ≠ 0#16 → s.cfg.th ≠ 0#16 → s.mem.vbuf = some l →
    ((s.cfg.tw.toNat + 7) / 8 * s.cfg.th.toNat = (s.cfg.tw.toNat + 3) / 4 * s.cfg.th.toNat ↔ s.cfg.tw.toNat ≤ 4) ∧
    (s.cfg.tw.toNat ≤ 4 → l.length = s.cfg.th.toNat → exec .detect s = .next { s with vbpp := 1#2, err := .ok }) ∧
    (5 ≤ s.cfg.tw.toNat → l.length = (s.cfg.tw.toNat + 3) / 4 * s.cfg.th.toNat →
      exec .detect s = .next { s with vbpp := 2#2, err := .ok })

/-- R99, R306, R67, R68: COPYBUF, one read of every byte of BUF and one load of VBUF, runs without a refused step and
leaves VBUF with BUF's bytes, HOST having been told each of them in order; nothing else changes (that HOST's moves and
replies stand in lists is the model's choice: log 1, 2). -/
def Obligations.CopyBufMovesTheBytesOfBufToVbuf : Prop :=
  ∀ (s : State) (b : PackedBuf) (moves rest : List HostMove), Inv s → s.mem.buf = some b →
    copyBufMoves s = some moves → s.pending = moves ++ rest →
    Reaches (b.bytes.length + 1) s { s with
      mem := { s.mem with vbuf := some b.bytes }, pending := rest,
      replies := s.replies ++ b.bytes.map HostReply.element }

/-! ### CONVERT -/

/-- R235, R236, R185: with a supported level count, a usable source and target, CONVERT completes: BUF has the target's
size, the format of the level count and its length; NRM, PIX, QNT are invalid; nothing else changes. -/
def Obligations.ConvertCompletesWithAPackedBuffer : Prop :=
  ∀ (s : State) (g : Image) (n : Nat), n = 2 ∨ n = 4 → s.cfg.levels = BitVec.ofNat 8 n → s.cfg.tw ≠ 0#16 →
    s.cfg.th ≠ 0#16 → s.mem.src = some g → UsableSource g →
    ∃ b : PackedBuf, exec .convert s = .next { s with
        mem := { s.mem with nrm := none, pix := none, qnt := none, buf := some b }, err := .ok } ∧
      b.w = s.cfg.tw ∧ b.h = s.cfg.th ∧ b.bpp.toNat = n / 2 ∧
      b.bytes.length = (if n = 2 then (s.cfg.tw.toNat + 7) / 8 else (s.cfg.tw.toNat + 3) / 4) * s.cfg.th.toNat

/-- R236: after CONVERT, successful or not, NRM, PIX and QNT are invalid, and SRC is not changed. -/
def Obligations.ConvertLeavesNoIntermediate : Prop :=
  ∀ s : State, ∃ t, exec .convert s = .next t ∧
    t.mem.nrm = none ∧ t.mem.pix = none ∧ t.mem.qnt = none ∧ t.mem.src = s.mem.src

/-- R237: a level count other than 2 and 4 ends CONVERT with UnsupportedLevelsError before anything else is looked at. -/
def Obligations.ConvertChecksTheLevelCountFirst : Prop :=
  ∀ s : State, s.cfg.levels ≠ 2#8 → s.cfg.levels ≠ 4#8 →
    exec .convert s =
      .next { s with mem := { s.mem with nrm := none, pix := none, qnt := none, buf := none }, err := .unsupportedLevels }

/-- R99, R235: CONVERT is the staged sequence: where no staged command raises, CONVERT's next state is the staged one
with the intermediates invalid; and where CONVERT completes without error, no staged command raises. -/
def Obligations.ConvertEqualsTheStagedCommands : Prop :=
  ∀ (s : State) (l : List Instr), stagedCommands s = some l →
    (∀ t, RunsClean l s t →
      exec .convert s = .next { t with mem := { t.mem with nrm := none, pix := none, qnt := none } }) ∧
    (∀ u, exec .convert s = .next u → u.err = .ok → ∃ t, RunsClean l s t)

/-- R54: CONVERT's result depends on SRC and the configuration registers alone, never on what the other planes and
registers held. -/
def Obligations.ConvertDependsOnSourceAndConfigurationOnly : Prop :=
  ∀ s s' : State, s.mem.src = s'.mem.src → s.cfg = s'.cfg →
    ∃ t t', exec .convert s = .next t ∧ exec .convert s' = .next t' ∧
      t.mem.buf = t'.mem.buf ∧ t.err = t'.err

/-- R238: which registers CONVERT reads in each mode: with 4 levels neither DITHER nor THRESH, BRIGHT, CONTRAST; with 2
levels undithered neither BRIGHT nor CONTRAST; with 2 levels dithered not THRESH. -/
def Obligations.ConvertIgnoresTheRegistersItsModeDoesNotRead : Prop :=
  ∀ (s s' : State), s.mem.src = s'.mem.src → s.cfg.tw = s'.cfg.tw → s.cfg.th = s'.cfg.th →
    s.cfg.levels = s'.cfg.levels →
    (s.cfg.levels = 4#8 ∨
     (s.cfg.levels = 2#8 ∧ s.cfg.dither = 0#1 ∧ s'.cfg.dither = 0#1 ∧ s.cfg.thresh = s'.cfg.thresh) ∨
     (s.cfg.levels = 2#8 ∧ s.cfg.dither = 1#1 ∧ s'.cfg.dither = 1#1 ∧ s.cfg.bright = s'.cfg.bright ∧
      s.cfg.contrast = s'.cfg.contrast)) →
    ∃ t t', exec .convert s = .next t ∧ exec .convert s' = .next t' ∧
      t.mem.buf = t'.mem.buf ∧ t.err = t'.err

/-- R235 with R116 (P4), R132 (L3), R154, R183, the source's end-to-end scenario for any target whose width is a multiple
of 4 and any intensity v: a source whose samples are all v gives a buffer of bytes floor(4v/256)·0x55 (0xAA for 128),
whatever RESAMPLE and LUMA are. -/
def Obligations.ConstantSourceConvertsToARepeatedByte : Prop :=
  ∀ (s : State) (g : Image) (v : Byte), Inv s → s.cfg.levels = 4#8 → s.cfg.tw ≠ 0#16 → s.cfg.th ≠ 0#16 →
    s.cfg.tw.toNat % 4 = 0 → s.mem.src = some g → UsableSource g → (∀ a ∈ g.data, a = v) →
    ∃ t b, exec .convert s = .next t ∧ t.err = .ok ∧ t.mem.buf = some b ∧
      b.bytes.length = s.cfg.tw.toNat / 4 * s.cfg.th.toNat ∧
      ∀ a ∈ b.bytes, a.toNat = v.toNat * 4 / 256 * 0x55
end

