-- ==== Sys2Proof/Laws/Operands.lean ====
section
/-! SUPPORT. What the functions of Machine/Operands.lean do: the bounds of clamp, the elements of gridOf and imageOf, the
fields of a byte, the row geometry. -/

namespace Sys2Proof.Machine

theorem clamp_bounds (v lo hi : Int) (h : lo ≤ hi) : lo ≤ clamp v lo hi ∧ clamp v lo hi ≤ hi := by
  unfold clamp; split_ifs <;> omega

theorem clamp_of_mem (v lo hi : Int) (h1 : lo ≤ v) (h2 : v ≤ hi) : clamp v lo hi = v := by
  unfold clamp; split_ifs <;> omega

theorem toByte_toNat (v : Int) (h0 : 0 ≤ v) (h1 : v ≤ 255) : ((toByte v).toNat : Int) = v := by
  unfold toByte; rw [BitVec.toNat_ofNat]; omega

theorem roundHu_le_iff (q : Rat) (k : Int) : k ≤ roundHu q ↔ (k : Rat) ≤ q + 1 / 2 := by
  unfold roundHu; exact Rat.le_floor_iff

theorem roundHu_intCast (k : Int) : roundHu (k : Rat) = k := by
  have h1 : k ≤ roundHu (k : Rat) := (roundHu_le_iff _ _).2 (by linarith)
  have h2 : ¬ (k + 1 ≤ roundHu (k : Rat)) := fun h => by
    have := (roundHu_le_iff _ _).1 h
    push_cast at this
    linarith
  omega

/-! ### gridOf -/

@[simp] theorem gridOf_length {α : Type} (w h : Nat) (f : Nat → Nat → α) : (gridOf w h f).length = w * h := by
  simp [gridOf]

theorem row_index_lt {w h x y : Nat} (hx : x < w) (hy : y < h) : y * w + x < w * h := by
  have : (y + 1) * w ≤ h * w := Nat.mul_le_mul_right w hy
  rw [Nat.add_mul] at this; rw [Nat.mul_comm w h]; omega

theorem row_index_mod {w x : Nat} (y : Nat) (hx : x < w) : (y * w + x) % w = x := by
  rw [Nat.mul_comm, Nat.mul_add_mod]; exact Nat.mod_eq_of_lt hx

theorem row_index_div {w x : Nat} (y : Nat) (hx : x < w) : (y * w + x) / w = y := by
  rw [Nat.mul_comm, Nat.mul_add_div (by omega), Nat.div_eq_of_lt hx, Nat.add_zero]

theorem gridOf_getElem? {α : Type} {w h x y : Nat} (f : Nat → Nat → α) (hx : x < w) (hy : y < h) :
    (gridOf w h f)[y * w + x]? = some (f x y) := by
  simp [gridOf, row_index_lt hx hy, row_index_mod y hx, row_index_div y hx]

/-- Element y·w + x of gridOf w h f is f x y (R61). -/
theorem gridOf_getD {α : Type} {w h x y : Nat} (f : Nat → Nat → α) (d : α) (hx : x < w) (hy : y < h) :
    (gridOf w h f).getD (y * w + x) d = f x y := by
  simp [List.getD_eq_getElem?_getD, gridOf_getElem? f hx hy]

theorem mem_gridOf {α : Type} {w h : Nat} {f : Nat → Nat → α} {a : α} (ha : a ∈ gridOf w h f) :
    ∃ x y, x < w ∧ y < h ∧ a = f x y := by
  obtain ⟨i, hi, rfl⟩ := List.mem_map.1 ha
  have hi : i < w * h := List.mem_range.1 hi
  have hw : 0 < w := Nat.pos_of_ne_zero (fun e => by subst e; simp at hi)
  exact ⟨i % w, i / w, Nat.mod_lt _ hw, Nat.div_lt_of_lt_mul hi, rfl⟩

/-- Two grids made of functions that agree inside the grid are the same. -/
theorem gridOf_congr {α : Type} {w h : Nat} {f g : Nat → Nat → α} (e : ∀ x y, x < w → y < h → f x y = g x y) :
    gridOf w h f = gridOf w h g := by
  refine List.map_congr_left fun i hi => ?_
  have hi : i < w * h := List.mem_range.1 hi
  have hw : 0 < w := Nat.pos_of_ne_zero (fun e => by subst e; simp at hi)
  exact e _ _ (Nat.mod_lt _ hw) (Nat.div_lt_of_lt_mul hi)

/-! ### imageOf -/

@[simp] theorem imageOf_length {α : Type} (w h ch : Nat) (f : Nat → Nat → Nat → α) :
    (imageOf w h ch f).length = w * h * ch := by
  simp [imageOf]

/-- Element (y·w + x)·ch + c of imageOf w h ch f is f x y c (R61). -/
theorem imageOf_getD {α : Type} {w h ch x y c : Nat} (f : Nat → Nat → Nat → α) (d : α) (hx : x < w) (hy : y < h)
    (hc : c < ch) : (imageOf w h ch f).getD ((y * w + x) * ch + c) d = f x y c := by
  have h1 : (y * w + x) * ch + c < w * h * ch := by
    have := row_index_lt (h := w * h) hc (row_index_lt hx hy)
    rwa [Nat.mul_comm ch] at this
  simp [List.getD_eq_getElem?_getD, imageOf, h1, row_index_mod (y * w + x) hc, row_index_div (y * w + x) hc,
    row_index_mod y hx, row_index_div y hx]

/-! ### Rows and fields of the packed buffer -/

theorem ceilDiv_pos {a b : Nat} (ha : 1 ≤ a) (hb : 1 ≤ b) : 1 ≤ ceilDiv a b := by
  unfold ceilDiv; exact (Nat.one_le_div_iff (by omega)).2 (by omega)

/-- Byte x div ppb of a row exists for every pixel x of the row (R62). -/
theorem div_lt_ceilDiv {x w p : Nat} (hp : 1 ≤ p) (hx : x < w) : x / p < ceilDiv w p := by
  unfold ceilDiv
  rw [Nat.div_lt_iff_lt_mul (by omega)]
  have := Nat.lt_div_mul_add (a := w + p - 1) (b := p) (by omega)
  omega

theorem byte_index_lt {bpp w h x y : Nat} (hp : 1 ≤ pixelsPerByte bpp) (hx : x < w) (hy : y < h) :
    y * rowBytes bpp w + x / pixelsPerByte bpp < expectedBytes bpp w h :=
  row_index_lt (div_lt_ceilDiv hp hx) hy

/-- The field of the 1-bit format: bit 7 - k (R63). -/
theorem fieldAt_one (b : Byte) (k : Nat) : fieldAt 1 b k = (BitVec.ofBool (b.getLsbD (7 - k))).setWidth 8 := by
  unfold fieldAt fieldShift
  have : 8 - 1 * (k + 1) = 7 - k := by omega
  rw [this]
  ext i hi
  simp only [BitVec.getElem_and, BitVec.getElem_ushiftRight, BitVec.getElem_setWidth, BitVec.getLsbD_ofBool]
  rcases i with _ | i
  · simp
  · simp [BitVec.getLsbD]

/-- The field of the 2-bit format, as a number: bits 7-2k and 6-2k (R63). -/
theorem fieldAt_two_toNat (b : Byte) {k : Nat} (hk : k < 4) : (fieldAt 2 b k).toNat = b.toNat / 2 ^ (6 - 2 * k) % 4 := by
  unfold fieldAt fieldShift
  have : 8 - 2 * (k + 1) = 6 - 2 * k := by omega
  rw [this, BitVec.toNat_and, BitVec.toNat_ushiftRight, Nat.shiftRight_eq_div_pow]
  exact Nat.and_two_pow_sub_one_eq_mod _ 2

theorem rowBytes_one (w : Nat) : rowBytes 1 w = (w + 7) / 8 := by
  unfold rowBytes ceilDiv pixelsPerByte; norm_num

theorem rowBytes_two (w : Nat) : rowBytes 2 w = (w + 3) / 4 := by
  unfold rowBytes ceilDiv pixelsPerByte; norm_num

theorem expectedBytes_one (w h : Nat) : expectedBytes 1 w h = (w + 7) / 8 * h := by
  rw [expectedBytes, rowBytes_one]

theorem expectedBytes_two (w h : Nat) : expectedBytes 2 w h = (w + 3) / 4 * h := by
  rw [expectedBytes, rowBytes_two]

/-- Round half up of a quotient of natural numbers, in whole-number arithmetic (R10). -/
theorem roundHu_div (p q : Nat) (hq : 1 ≤ q) : roundHu ((p : Rat) / q) = ((2 * p + q) / (2 * q) : Nat) := by
  unfold roundHu
  have hq' : (0 : Rat) < q := by exact_mod_cast hq
  have h := Nat.div_add_mod (2 * p + q) (2 * q)
  have hm := Nat.mod_lt (2 * p + q) (show 2 * q > 0 by omega)
  set k := (2 * p + q) / (2 * q)
  set m := (2 * p + q) % (2 * q)
  have hr : (2 * q : Rat) * k + m = 2 * p + q := by exact_mod_cast h
  have hm' : (m : Rat) < 2 * q := by exact_mod_cast hm
  have hm0 : (0 : Rat) ≤ m := by positivity
  have : (p : Rat) / q + 1 / 2 = k + m / (2 * q) := by field_simp; linarith
  rw [this]
  have a1 : (0 : Rat) ≤ m / (2 * q) := by positivity
  have a2 : (m : Rat) / (2 * q) < 1 := by rw [div_lt_one (by positivity)]; exact hm'
  apply le_antisymm
  · by_contra hcon
    push Not at hcon
    have := Rat.le_floor_iff.1 (Int.add_one_le_iff.2 hcon)
    push_cast at this
    linarith
  · rw [Rat.le_floor_iff]
    push_cast
    linarith

end Sys2Proof.Machine
end

