-- ==== Sys2Proof/Laws/State.lean ====
section
/-! SUPPORT. Every field of the state after every named update of Machine/Ops.lean, true by rfl. -/

namespace Sys2Proof.Machine

/-! ### withMem -/

@[simp] theorem State.withMem_mem (m : Memory) (s : State) : (s.withMem m).mem = m := rfl
@[simp] theorem State.withMem_cfg (m : Memory) (s : State) : (s.withMem m).cfg = s.cfg := rfl
@[simp] theorem State.withMem_err (m : Memory) (s : State) : (s.withMem m).err = s.err := rfl
@[simp] theorem State.withMem_short (m : Memory) (s : State) : (s.withMem m).short = s.short := rfl
@[simp] theorem State.withMem_long (m : Memory) (s : State) : (s.withMem m).long = s.long := rfl
@[simp] theorem State.withMem_vbpp (m : Memory) (s : State) : (s.withMem m).vbpp = s.vbpp := rfl
@[simp] theorem State.withMem_dcount (m : Memory) (s : State) : (s.withMem m).dcount = s.dcount := rfl
@[simp] theorem State.withMem_pending (m : Memory) (s : State) : (s.withMem m).pending = s.pending := rfl
@[simp] theorem State.withMem_replies (m : Memory) (s : State) : (s.withMem m).replies = s.replies := rfl
@[simp] theorem State.withMem_resets (m : Memory) (s : State) : (s.withMem m).resets = s.resets := rfl

/-! ### withCfg -/

@[simp] theorem State.withCfg_mem (c : ConfigRegs) (s : State) : (s.withCfg c).mem = s.mem := rfl
@[simp] theorem State.withCfg_cfg (c : ConfigRegs) (s : State) : (s.withCfg c).cfg = c := rfl
@[simp] theorem State.withCfg_err (c : ConfigRegs) (s : State) : (s.withCfg c).err = s.err := rfl
@[simp] theorem State.withCfg_short (c : ConfigRegs) (s : State) : (s.withCfg c).short = s.short := rfl
@[simp] theorem State.withCfg_long (c : ConfigRegs) (s : State) : (s.withCfg c).long = s.long := rfl
@[simp] theorem State.withCfg_vbpp (c : ConfigRegs) (s : State) : (s.withCfg c).vbpp = s.vbpp := rfl
@[simp] theorem State.withCfg_dcount (c : ConfigRegs) (s : State) : (s.withCfg c).dcount = s.dcount := rfl
@[simp] theorem State.withCfg_pending (c : ConfigRegs) (s : State) : (s.withCfg c).pending = s.pending := rfl
@[simp] theorem State.withCfg_replies (c : ConfigRegs) (s : State) : (s.withCfg c).replies = s.replies := rfl
@[simp] theorem State.withCfg_resets (c : ConfigRegs) (s : State) : (s.withCfg c).resets = s.resets := rfl

/-! ### withErr -/

@[simp] theorem State.withErr_mem (e : Err) (s : State) : (s.withErr e).mem = s.mem := rfl
@[simp] theorem State.withErr_cfg (e : Err) (s : State) : (s.withErr e).cfg = s.cfg := rfl
@[simp] theorem State.withErr_err (e : Err) (s : State) : (s.withErr e).err = e := rfl
@[simp] theorem State.withErr_short (e : Err) (s : State) : (s.withErr e).short = s.short := rfl
@[simp] theorem State.withErr_long (e : Err) (s : State) : (s.withErr e).long = s.long := rfl
@[simp] theorem State.withErr_vbpp (e : Err) (s : State) : (s.withErr e).vbpp = s.vbpp := rfl
@[simp] theorem State.withErr_dcount (e : Err) (s : State) : (s.withErr e).dcount = s.dcount := rfl
@[simp] theorem State.withErr_pending (e : Err) (s : State) : (s.withErr e).pending = s.pending := rfl
@[simp] theorem State.withErr_replies (e : Err) (s : State) : (s.withErr e).replies = s.replies := rfl
@[simp] theorem State.withErr_resets (e : Err) (s : State) : (s.withErr e).resets = s.resets := rfl

/-! ### withLength -/

@[simp] theorem State.withLength_mem (sh lo : Bool) (d : Word) (s : State) : (s.withLength sh lo d).mem = s.mem := rfl
@[simp] theorem State.withLength_cfg (sh lo : Bool) (d : Word) (s : State) : (s.withLength sh lo d).cfg = s.cfg := rfl
@[simp] theorem State.withLength_err (sh lo : Bool) (d : Word) (s : State) : (s.withLength sh lo d).err = s.err := rfl
@[simp] theorem State.withLength_short (sh lo : Bool) (d : Word) (s : State) : (s.withLength sh lo d).short = sh := rfl
@[simp] theorem State.withLength_long (sh lo : Bool) (d : Word) (s : State) : (s.withLength sh lo d).long = lo := rfl
@[simp] theorem State.withLength_vbpp (sh lo : Bool) (d : Word) (s : State) : (s.withLength sh lo d).vbpp = s.vbpp := rfl
@[simp] theorem State.withLength_dcount (sh lo : Bool) (d : Word) (s : State) : (s.withLength sh lo d).dcount = d := rfl
@[simp] theorem State.withLength_pending (sh lo : Bool) (d : Word) (s : State) : (s.withLength sh lo d).pending = s.pending := rfl
@[simp] theorem State.withLength_replies (sh lo : Bool) (d : Word) (s : State) : (s.withLength sh lo d).replies = s.replies := rfl
@[simp] theorem State.withLength_resets (sh lo : Bool) (d : Word) (s : State) : (s.withLength sh lo d).resets = s.resets := rfl

/-! ### withVbpp -/

@[simp] theorem State.withVbpp_mem (v : BitVec 2) (s : State) : (s.withVbpp v).mem = s.mem := rfl
@[simp] theorem State.withVbpp_cfg (v : BitVec 2) (s : State) : (s.withVbpp v).cfg = s.cfg := rfl
@[simp] theorem State.withVbpp_err (v : BitVec 2) (s : State) : (s.withVbpp v).err = s.err := rfl
@[simp] theorem State.withVbpp_short (v : BitVec 2) (s : State) : (s.withVbpp v).short = s.short := rfl
@[simp] theorem State.withVbpp_long (v : BitVec 2) (s : State) : (s.withVbpp v).long = s.long := rfl
@[simp] theorem State.withVbpp_vbpp (v : BitVec 2) (s : State) : (s.withVbpp v).vbpp = v := rfl
@[simp] theorem State.withVbpp_dcount (v : BitVec 2) (s : State) : (s.withVbpp v).dcount = s.dcount := rfl
@[simp] theorem State.withVbpp_pending (v : BitVec 2) (s : State) : (s.withVbpp v).pending = s.pending := rfl
@[simp] theorem State.withVbpp_replies (v : BitVec 2) (s : State) : (s.withVbpp v).replies = s.replies := rfl
@[simp] theorem State.withVbpp_resets (v : BitVec 2) (s : State) : (s.withVbpp v).resets = s.resets := rfl

/-! ### withPending -/

@[simp] theorem State.withPending_mem (l : List HostMove) (s : State) : (s.withPending l).mem = s.mem := rfl
@[simp] theorem State.withPending_cfg (l : List HostMove) (s : State) : (s.withPending l).cfg = s.cfg := rfl
@[simp] theorem State.withPending_err (l : List HostMove) (s : State) : (s.withPending l).err = s.err := rfl
@[simp] theorem State.withPending_short (l : List HostMove) (s : State) : (s.withPending l).short = s.short := rfl
@[simp] theorem State.withPending_long (l : List HostMove) (s : State) : (s.withPending l).long = s.long := rfl
@[simp] theorem State.withPending_vbpp (l : List HostMove) (s : State) : (s.withPending l).vbpp = s.vbpp := rfl
@[simp] theorem State.withPending_dcount (l : List HostMove) (s : State) : (s.withPending l).dcount = s.dcount := rfl
@[simp] theorem State.withPending_pending (l : List HostMove) (s : State) : (s.withPending l).pending = l := rfl
@[simp] theorem State.withPending_replies (l : List HostMove) (s : State) : (s.withPending l).replies = s.replies := rfl
@[simp] theorem State.withPending_resets (l : List HostMove) (s : State) : (s.withPending l).resets = s.resets := rfl

/-! ### withReply -/

@[simp] theorem State.withReply_mem (r : HostReply) (s : State) : (s.withReply r).mem = s.mem := rfl
@[simp] theorem State.withReply_cfg (r : HostReply) (s : State) : (s.withReply r).cfg = s.cfg := rfl
@[simp] theorem State.withReply_err (r : HostReply) (s : State) : (s.withReply r).err = s.err := rfl
@[simp] theorem State.withReply_short (r : HostReply) (s : State) : (s.withReply r).short = s.short := rfl
@[simp] theorem State.withReply_long (r : HostReply) (s : State) : (s.withReply r).long = s.long := rfl
@[simp] theorem State.withReply_vbpp (r : HostReply) (s : State) : (s.withReply r).vbpp = s.vbpp := rfl
@[simp] theorem State.withReply_dcount (r : HostReply) (s : State) : (s.withReply r).dcount = s.dcount := rfl
@[simp] theorem State.withReply_pending (r : HostReply) (s : State) : (s.withReply r).pending = s.pending := rfl
@[simp] theorem State.withReply_replies (r : HostReply) (s : State) : (s.withReply r).replies = s.replies ++ [r] := rfl
@[simp] theorem State.withReply_resets (r : HostReply) (s : State) : (s.withReply r).resets = s.resets := rfl

/-! ### raise: the status of the error, and everything R262 keeps -/

@[simp] theorem State.raise_err (e : Err) (d : ErrDest) (s : State) : (s.raise e d).err = e := rfl
@[simp] theorem State.raise_cfg (e : Err) (d : ErrDest) (s : State) : (s.raise e d).cfg = s.cfg := by cases d <;> rfl
@[simp] theorem State.raise_short (e : Err) (d : ErrDest) (s : State) : (s.raise e d).short = s.short := by cases d <;> rfl
@[simp] theorem State.raise_long (e : Err) (d : ErrDest) (s : State) : (s.raise e d).long = s.long := by cases d <;> rfl
@[simp] theorem State.raise_dcount (e : Err) (d : ErrDest) (s : State) : (s.raise e d).dcount = s.dcount := by cases d <;> rfl
@[simp] theorem State.raise_pending (e : Err) (d : ErrDest) (s : State) : (s.raise e d).pending = s.pending := by cases d <;> rfl
@[simp] theorem State.raise_replies (e : Err) (d : ErrDest) (s : State) : (s.raise e d).replies = s.replies := by cases d <;> rfl
@[simp] theorem State.raise_resets (e : Err) (d : ErrDest) (s : State) : (s.raise e d).resets = s.resets := by cases d <;> rfl

/-- A raise keeps SRC and VBUF, whatever the destination. -/
@[simp] theorem State.raise_src (e : Err) (d : ErrDest) (s : State) : (s.raise e d).mem.src = s.mem.src := by cases d <;> rfl
@[simp] theorem State.raise_vbuf (e : Err) (d : ErrDest) (s : State) : (s.raise e d).mem.vbuf = s.mem.vbuf := by cases d <;> rfl

/-! ### resetEvent -/

@[simp] theorem State.resetEvent_mem (s : State) : s.resetEvent.mem = Memory.empty := rfl
@[simp] theorem State.resetEvent_cfg (s : State) : s.resetEvent.cfg = drawnConfig s.resets := rfl
@[simp] theorem State.resetEvent_err (s : State) : s.resetEvent.err = .ok := rfl
@[simp] theorem State.resetEvent_short (s : State) : s.resetEvent.short = false := rfl
@[simp] theorem State.resetEvent_long (s : State) : s.resetEvent.long = false := rfl
@[simp] theorem State.resetEvent_vbpp (s : State) : s.resetEvent.vbpp = 0 := rfl
@[simp] theorem State.resetEvent_dcount (s : State) : s.resetEvent.dcount = 0 := rfl
@[simp] theorem State.resetEvent_pending (s : State) : s.resetEvent.pending = s.pending := rfl
@[simp] theorem State.resetEvent_replies (s : State) : s.resetEvent.replies = s.replies := rfl
@[simp] theorem State.resetEvent_resets (s : State) : s.resetEvent.resets = s.resets + 1 := rfl

/-! ### resetWith -/

@[simp] theorem State.resetWith_mem (c : ConfigRegs) : (State.resetWith c).mem = Memory.empty := rfl
@[simp] theorem State.resetWith_cfg (c : ConfigRegs) : (State.resetWith c).cfg = c := rfl
@[simp] theorem State.resetWith_err (c : ConfigRegs) : (State.resetWith c).err = .ok := rfl
@[simp] theorem State.resetWith_short (c : ConfigRegs) : (State.resetWith c).short = false := rfl
@[simp] theorem State.resetWith_long (c : ConfigRegs) : (State.resetWith c).long = false := rfl
@[simp] theorem State.resetWith_vbpp (c : ConfigRegs) : (State.resetWith c).vbpp = 0 := rfl
@[simp] theorem State.resetWith_dcount (c : ConfigRegs) : (State.resetWith c).dcount = 0 := rfl
@[simp] theorem State.resetWith_pending (c : ConfigRegs) : (State.resetWith c).pending = [] := rfl
@[simp] theorem State.resetWith_replies (c : ConfigRegs) : (State.resetWith c).replies = [] := rfl
@[simp] theorem State.resetWith_resets (c : ConfigRegs) : (State.resetWith c).resets = 0 := rfl

end Sys2Proof.Machine
end

