-- ==== Sys2Proof/Laws/Planes.lean ====
section
/-! SUPPORT. The canonical form of the plane space: what `Memory.wf` says, that replacing a plane by one in form, or
invalidating it, keeps it, and that loads and drops (spec/20_memory.md R68) keep it. Also what a PlaneRead can answer. -/

namespace Sys2Proof.Machine

theorem memory_wf_iff (m : Memory) :
    m.wf = true ↔
      (∀ g, m.src = some g → g.sourceWf = true) ∧ (∀ g, m.nrm = some g → g.normalizedWf = true) ∧
      (∀ g, m.pix = some g → g.wf = true) ∧ (∀ g, m.qnt = some g → g.wf = true) ∧
      (∀ b, m.buf = some b → b.wf = true) ∧ (∀ l, m.vbuf = some l → vbufWf l = true) ∧
      (∀ g, m.dec = some g → g.wf = true) := by
  simp [Memory.wf, Option.all_eq_true, and_assoc]

theorem memory_empty_wf : Memory.empty.wf = true := by decide

/-! ### Replacing or invalidating one plane -/

theorem wf_withSrc {m : Memory} {o : Option Image} (hm : m.wf = true) (ho : ∀ g, o = some g → g.sourceWf = true) :
    Memory.wf { m with src := o } = true := by
  rw [memory_wf_iff] at *; exact ⟨ho, hm.2⟩

theorem wf_withNrm {m : Memory} {o : Option Image} (hm : m.wf = true) (ho : ∀ g, o = some g → g.normalizedWf = true) :
    Memory.wf { m with nrm := o } = true := by
  rw [memory_wf_iff] at *; exact ⟨hm.1, ho, hm.2.2⟩

theorem wf_withPix {m : Memory} {o : Option Grid} (hm : m.wf = true) (ho : ∀ g, o = some g → g.wf = true) :
    Memory.wf { m with pix := o } = true := by
  rw [memory_wf_iff] at *; exact ⟨hm.1, hm.2.1, ho, hm.2.2.2⟩

theorem wf_withQnt {m : Memory} {o : Option QGrid} (hm : m.wf = true) (ho : ∀ g, o = some g → g.wf = true) :
    Memory.wf { m with qnt := o } = true := by
  rw [memory_wf_iff] at *; exact ⟨hm.1, hm.2.1, hm.2.2.1, ho, hm.2.2.2.2⟩

theorem wf_withBuf {m : Memory} {o : Option PackedBuf} (hm : m.wf = true) (ho : ∀ g, o = some g → g.wf = true) :
    Memory.wf { m with buf := o } = true := by
  rw [memory_wf_iff] at *; exact ⟨hm.1, hm.2.1, hm.2.2.1, hm.2.2.2.1, ho, hm.2.2.2.2.2⟩

theorem wf_withVbuf {m : Memory} {o : Option (List Byte)} (hm : m.wf = true) (ho : ∀ g, o = some g → vbufWf g = true) :
    Memory.wf { m with vbuf := o } = true := by
  rw [memory_wf_iff] at *; exact ⟨hm.1, hm.2.1, hm.2.2.1, hm.2.2.2.1, hm.2.2.2.2.1, ho, hm.2.2.2.2.2.2⟩

theorem wf_withDec {m : Memory} {o : Option DecGrid} (hm : m.wf = true) (ho : ∀ g, o = some g → g.wf = true) :
    Memory.wf { m with dec := o } = true := by
  rw [memory_wf_iff] at *; exact ⟨hm.1, hm.2.1, hm.2.2.1, hm.2.2.2.1, hm.2.2.2.2.1, hm.2.2.2.2.2.1, ho⟩

/-! ### Loads and drops -/

theorem loadIf_ok {α : Type} {form : α → Bool} {g : Option α} {put : α → Memory} {m' : Memory}
    (h : loadIf form g put = .ok m') : ∃ a, g = some a ∧ form a = true ∧ m' = put a := by
  unfold loadIf at h
  split at h
  · rename_i a e
    obtain ⟨e1, e2⟩ := Option.filter_eq_some_iff.1 e
    exact ⟨a, e1, e2, by cases h; rfl⟩
  · cases h

/-- What a load can do: one of four planes replaced by content in form that its arguments make, or a refusal. -/
theorem load_ok {m m' : Memory} {p : Plane} {w h aux : Nat} {data : List Nat} (e : m.load p w h aux data = .ok m') :
    (p = .src ∧ ∃ g, loadedImage w h aux data = some g ∧ g.sourceWf = true ∧ m' = { m with src := some g }) ∨
    (p = .nrm ∧ ∃ g, loadedImage w h aux data = some g ∧ g.normalizedWf = true ∧ m' = { m with nrm := some g }) ∨
    (p = .pix ∧ ∃ g, loadedGrid w h data = some g ∧ g.wf = true ∧ m' = { m with pix := some g }) ∨
    (p = .vbuf ∧ ∃ l, samplesOf data = some l ∧ vbufWf l = true ∧ m' = { m with vbuf := some l }) := by
  cases p <;> simp only [Memory.load] at e
  · exact .inl ⟨rfl, loadIf_ok e⟩
  · exact .inr (.inl ⟨rfl, loadIf_ok e⟩)
  · exact .inr (.inr (.inl ⟨rfl, loadIf_ok e⟩))
  · cases e
  · cases e
  · exact .inr (.inr (.inr ⟨rfl, loadIf_ok e⟩))
  · cases e

theorem load_keeps_wf {m m' : Memory} {p : Plane} {w h aux : Nat} {data : List Nat} (hm : m.wf = true)
    (e : m.load p w h aux data = .ok m') : m'.wf = true := by
  obtain ⟨-, g, -, hg, rfl⟩ | ⟨-, g, -, hg, rfl⟩ | ⟨-, g, -, hg, rfl⟩ | ⟨-, g, -, hg, rfl⟩ := load_ok e
  · exact wf_withSrc hm (by rintro _ ⟨⟩; exact hg)
  · exact wf_withNrm hm (by rintro _ ⟨⟩; exact hg)
  · exact wf_withPix hm (by rintro _ ⟨⟩; exact hg)
  · exact wf_withVbuf hm (by rintro _ ⟨⟩; exact hg)

/-- What a drop can do (R68). -/
theorem drop_ok {m m' : Memory} {p : Plane} (e : m.drop p = .ok m') :
    (p = .src ∧ m' = { m with src := none }) ∨ (p = .vbuf ∧ m' = { m with vbuf := none }) := by
  cases p <;> simp only [Memory.drop] at e <;> cases e
  · exact .inl ⟨rfl, rfl⟩
  · exact .inr ⟨rfl, rfl⟩

theorem drop_keeps_wf {m m' : Memory} {p : Plane} (hm : m.wf = true) (e : m.drop p = .ok m') : m'.wf = true := by
  obtain ⟨-, rfl⟩ | ⟨-, rfl⟩ := drop_ok e
  · exact wf_withSrc hm (by rintro _ ⟨⟩)
  · exact wf_withVbuf hm (by rintro _ ⟨⟩)

/-! ### Samples of a load -/

theorem sampleOf_eq_some {v : Nat} {b : Byte} : sampleOf v = some b ↔ v ≤ 255 ∧ b = BitVec.ofNat 8 v := by
  unfold sampleOf; split_ifs with h <;> simp [h, eq_comm]

theorem dimOf_eq_some {v : Nat} {b : Dim} : dimOf v = some b ↔ v ≤ 65535 ∧ b = BitVec.ofNat 16 v := by
  unfold dimOf; split_ifs with h <;> simp [h, eq_comm]

theorem samplesOf_cons (v : Nat) (l : List Nat) :
    samplesOf (v :: l) = (sampleOf v).bind (fun b => (samplesOf l).map (b :: ·)) := by
  simp only [samplesOf, List.mapM_cons]; cases sampleOf v <;> simp [Option.map_eq_bind]

/-- A load's numbers are samples exactly when all are at most 255 (R68). -/
theorem samplesOf_eq_some {l : List Nat} {bs : List Byte} :
    samplesOf l = some bs ↔ (∀ v ∈ l, v ≤ 255) ∧ bs = l.map (BitVec.ofNat 8) := by
  induction l generalizing bs with
  | nil => simp [samplesOf, eq_comm]
  | cons v l ih =>
    rw [samplesOf_cons]
    constructor
    · intro h
      obtain ⟨b, hb, h⟩ := Option.bind_eq_some_iff.1 h
      obtain ⟨cs, hc, rfl⟩ := Option.map_eq_some_iff.1 h
      obtain ⟨h1, rfl⟩ := sampleOf_eq_some.1 hb
      obtain ⟨h2, rfl⟩ := ih.1 hc
      exact ⟨by simpa using ⟨h1, h2⟩, rfl⟩
    · rintro ⟨h, rfl⟩
      have h1 : sampleOf v = some (BitVec.ofNat 8 v) := sampleOf_eq_some.2 ⟨h v (by simp), rfl⟩
      have h2 := ih.2 ⟨fun u hu => h u (by simp [hu]), rfl⟩
      simp [h1, h2]

/-! ### Reading an element (R67) -/

/-- A PlaneRead answers a value exactly when the plane is valid, the index is inside it and the cell holds a value. -/
theorem element_ok_iff {m : Memory} {p : Plane} {i : Nat} {v : Byte} :
    m.element p i = .ok v ↔ ∃ l, m.elements p = some l ∧ l[i]? = some (some v) := by
  unfold Memory.element
  cases m.elements p with
  | none => simp
  | some l =>
    rcases h : l[i]? with _ | _ | _ <;> simp_all

theorem valid_iff_elements {m : Memory} {p : Plane} : m.valid p = (m.elements p).isSome := by
  cases p <;> simp [Memory.valid, Memory.elements]

end Sys2Proof.Machine
end

