-- ==== Sys2Proof/Laws/Pack.lean ====
section
/-! SUPPORT. The Bit Packer: which field stands where in a packed byte (spec/20_memory.md R63, R64), and that a packed
buffer is in canonical form (spec/10_state.md R27). -/

namespace Sys2Proof.Machine

theorem getLsbD_foldl_or (l : List Nat) (g : Nat → Byte) (b : Byte) (i : Nat) :
    (l.foldl (fun b k => b ||| g k) b).getLsbD i = (b.getLsbD i || l.any (fun k => (g k).getLsbD i)) := by
  induction l generalizing b with
  | nil => simp
  | cons k l ih => simp [ih, Bool.or_assoc]

theorem packByte_eq (bpp : Nat) (field : Level → Byte) (w : Nat) (row : Nat → Level) (j : Nat) :
    packByte bpp field w row j =
      (List.range (pixelsPerByte bpp)).foldl
        (fun b k => b ||| (if pixelsPerByte bpp * j + k < w then
          field (row (pixelsPerByte bpp * j + k)) <<< fieldShift bpp k else 0#8)) 0#8 := by
  unfold packByte
  congr 1
  funext b k
  dsimp only
  split_ifs <;> simp

theorem getLsbD_false_of_small {bpp i : Nat} {v : Byte} (hv : v.toNat < 2 ^ bpp) (hi : bpp ≤ i) :
    v.getLsbD i = false := by
  rw [BitVec.getLsbD]
  exact Nat.testBit_lt_two_pow (lt_of_lt_of_le hv (Nat.pow_le_pow_right (by norm_num) hi))

theorem mask_getLsbD {bpp i : Nat} (hb : bpp = 1 ∨ bpp = 2) :
    (BitVec.ofNat 8 (2 ^ bpp - 1)).getLsbD i = decide (i < bpp) := by
  rw [BitVec.getLsbD_ofNat, Nat.testBit_two_pow_sub_one]
  by_cases h : i < bpp <;> simp [h]; omega

theorem fieldAt_getLsbD {bpp : Nat} (hb : bpp = 1 ∨ bpp = 2) (b : Byte) (k i : Nat) :
    (fieldAt bpp b k).getLsbD i = (b.getLsbD (fieldShift bpp k + i) && decide (i < bpp)) := by
  rw [fieldAt, BitVec.getLsbD_and, mask_getLsbD hb, BitVec.getLsbD_ushiftRight]

theorem pixelsPerByte_pos {bpp : Nat} (hb : bpp = 1 ∨ bpp = 2) : 1 ≤ pixelsPerByte bpp := by
  rcases hb with rfl | rfl <;> decide

theorem fieldShift_facts {bpp k : Nat} (hb : bpp = 1 ∨ bpp = 2) (hk : k < pixelsPerByte bpp) :
    fieldShift bpp k + bpp * (k + 1) = 8 := by
  unfold fieldShift
  rcases hb with rfl | rfl <;> simp [pixelsPerByte] at hk <;> omega

/-- Field k of a packed byte is the field of its pixel, and 0 past the row's end (R63, R64, R186). -/
theorem fieldAt_packByte {bpp : Nat} {field : Level → Byte} (hb : bpp = 1 ∨ bpp = 2)
    (hf : ∀ q, (field q).toNat < 2 ^ bpp) (w : Nat) (row : Nat → Level) (j : Nat) {k : Nat}
    (hk : k < pixelsPerByte bpp) :
    fieldAt bpp (packByte bpp field w row j) k =
      if pixelsPerByte bpp * j + k < w then field (row (pixelsPerByte bpp * j + k)) else 0#8 := by
  have sk := fieldShift_facts hb hk
  have hb1 : 1 ≤ bpp := by omega
  -- the bit at the place of pixel k comes from pixel k alone
  have key : ∀ k' < pixelsPerByte bpp, ∀ i < bpp,
      (if pixelsPerByte bpp * j + k' < w then
        field (row (pixelsPerByte bpp * j + k')) <<< fieldShift bpp k' else 0#8).getLsbD (fieldShift bpp k + i) =
      (decide (k' = k) && (if pixelsPerByte bpp * j + k < w then field (row (pixelsPerByte bpp * j + k)) else 0#8).getLsbD i) := by
    intro k' hk' i hi
    have sk' := fieldShift_facts hb hk'
    by_cases e : k' = k
    · subst e
      split_ifs with hx
      · have : fieldShift bpp k' + i < 8 := by rcases hb with rfl | rfl <;> omega
        rw [BitVec.getLsbD_shiftLeft]
        simp [this]
      · simp
    · simp only [e, decide_false, Bool.false_and]
      split_ifs with hx
      · rw [BitVec.getLsbD_shiftLeft]
        by_cases lt : fieldShift bpp k + i < fieldShift bpp k'
        · simp [lt]
        · have : bpp ≤ fieldShift bpp k + i - fieldShift bpp k' := by
            rcases hb with rfl | rfl <;> omega
          simp [getLsbD_false_of_small (hf _) this]
      · simp
  apply BitVec.eq_of_getLsbD_eq
  intro i hi
  rw [fieldAt_getLsbD hb, packByte_eq, getLsbD_foldl_or]
  have small : ∀ i, bpp ≤ i →
      (if pixelsPerByte bpp * j + k < w then field (row (pixelsPerByte bpp * j + k)) else 0#8).getLsbD i = false := by
    intro i h
    split_ifs
    · exact getLsbD_false_of_small (hf _) h
    · simp
  by_cases lt : i < bpp
  · have : ((List.range (pixelsPerByte bpp)).any fun k' =>
        (if pixelsPerByte bpp * j + k' < w then
          field (row (pixelsPerByte bpp * j + k')) <<< fieldShift bpp k' else 0#8).getLsbD (fieldShift bpp k + i)) =
        (if pixelsPerByte bpp * j + k < w then field (row (pixelsPerByte bpp * j + k)) else 0#8).getLsbD i := by
      rw [Bool.eq_iff_iff, List.any_eq_true]
      constructor
      · rintro ⟨k', hk', h⟩
        rw [key k' (List.mem_range.1 hk') i lt, Bool.and_eq_true] at h
        exact h.2
      · intro h
        exact ⟨k, List.mem_range.2 hk, by rw [key k hk i lt, h]; simp⟩
    rw [this]
    simp [lt]
  · rw [small i (by omega)]
    simp [lt]

theorem blackBit_small (q : Level) : (blackBit q).toNat < 2 ^ 1 := by
  unfold blackBit; split_ifs <;> decide

theorem levelField_small (q : Level) : (levelField q).toNat < 2 ^ 2 := by
  simp only [levelField, BitVec.toNat_setWidth]; omega

@[simp] theorem packed_w (bpp : Nat) (field : Level → Byte) (g : QGrid) : (g.packed bpp field).w = g.w := rfl
@[simp] theorem packed_h (bpp : Nat) (field : Level → Byte) (g : QGrid) : (g.packed bpp field).h = g.h := rfl
@[simp] theorem packed_bpp (bpp : Nat) (field : Level → Byte) (g : QGrid) :
    (g.packed bpp field).bpp = BitVec.ofNat 8 bpp := rfl
@[simp] theorem packed_length (bpp : Nat) (field : Level → Byte) (g : QGrid) :
    (g.packed bpp field).bytes.length = expectedBytes bpp g.w.toNat g.h.toNat := by
  simp [QGrid.packed, expectedBytes]

/-- Byte y·rowbytes + j of a packed buffer is byte j of row y (R62). -/
theorem packed_byte {bpp : Nat} (field : Level → Byte) (g : QGrid) {j y : Nat} (hj : j < rowBytes bpp g.w.toNat)
    (hy : y < g.h.toNat) :
    (g.packed bpp field).byte (y * rowBytes bpp g.w.toNat + j) =
      packByte bpp field g.w.toNat (fun x => g.cell x y) j := by
  simp only [PackedBuf.byte, QGrid.packed]
  exact gridOf_getD _ _ hj hy

/-- Every byte of a packed buffer, by its index. -/
theorem packed_byte_index {bpp : Nat} (field : Level → Byte) (g : QGrid) {i : Nat}
    (hi : i < expectedBytes bpp g.w.toNat g.h.toNat) :
    (g.packed bpp field).byte i =
      packByte bpp field g.w.toNat (fun x => g.cell x (i / rowBytes bpp g.w.toNat)) (i % rowBytes bpp g.w.toNat) := by
  unfold expectedBytes at hi
  have h0 : 0 < rowBytes bpp g.w.toNat := Nat.pos_of_ne_zero (fun e => by rw [e] at hi; simp at hi)
  have := packed_byte (bpp := bpp) field g (Nat.mod_lt i h0) (Nat.div_lt_of_lt_mul hi)
  rwa [Nat.mul_comm, Nat.div_add_mod] at this

theorem packed_wf {bpp : Nat} {field : Level → Byte} (hb : bpp = 1 ∨ bpp = 2) (hf : ∀ q, (field q).toNat < 2 ^ bpp)
    {g : QGrid} (hg : g.wf = true) : (g.packed bpp field).wf = true := by
  have hbpp : (BitVec.ofNat 8 bpp).toNat = bpp := by rcases hb with rfl | rfl <;> rfl
  simp only [QGrid.wf, decide_eq_true_eq] at hg
  simp only [PackedBuf.wf, PackedBuf.paddingZero, Bool.and_eq_true, decide_eq_true_eq, packed_w, packed_h, packed_bpp,
    packed_length, hbpp]
  refine ⟨⟨hg.1, hg.2.1, by rcases hb with rfl | rfl <;> simp, trivial⟩, ?_⟩
  intro i hi k hk hx
  rw [packed_byte_index field g hi, fieldAt_packByte hb hf _ _ _ hk, if_neg (by omega)]

end Sys2Proof.Machine
end

