-- ==== Sys2Proof/Laws/Commands.lean ====
section
/-! SUPPORT. For each command, once, everything it does when it completes, and that its result is in canonical form. The
proofs cite these lemmas instead of unfolding a meaning. -/

namespace Sys2Proof.Machine

/-! ### Ending -/

theorem finish_ok (d : ErrDest) (t s : State) : finish d (.ok t) s = .next (t.withErr .ok) := rfl
theorem finish_error (d : ErrDest) (e : Err) (s : State) : finish d (.error e) s = .next (s.raise e d) := rfl

/-- However a command ends, there is a next state: its result with ERR 0, or the error taken (R262). -/
theorem finish_cases {d : ErrDest} {r : Except Err State} {s t : State} (h : finish d r s = .next t) :
    (∃ u, r = .ok u ∧ t = u.withErr .ok) ∨ (∃ e, r = .error e ∧ t = s.raise e d) := by
  cases r with
  | ok u => exact .inl ⟨u, rfl, by cases h; rfl⟩
  | error e => exact .inr ⟨e, rfl, by cases h; rfl⟩

theorem finish_next (d : ErrDest) (r : Except Err State) (s : State) : ∃ t, finish d r s = .next t := by
  cases r <;> exact ⟨_, rfl⟩

theorem raise_keeps_wf {e : Err} {d : ErrDest} {s : State} (h : s.mem.wf = true) : (s.raise e d).mem.wf = true := by
  have hn : ∀ {α : Type} {p : α → Prop}, ∀ g, (none : Option α) = some g → p g := by rintro _ _ _ ⟨⟩
  cases d
  · exact wf_withNrm h hn
  · exact wf_withPix h hn
  · exact wf_withQnt h hn
  · exact wf_withBuf h hn
  · exact wf_withDec h hn
  · exact h
  · exact wf_withBuf (wf_withQnt (wf_withPix (wf_withNrm h hn) hn) hn) hn
  · exact h

/-! ### NORMALIZE -/

theorem normalizeBody_ok {s t : State} (h : normalizeBody s = .ok t) :
    s.targetW ≠ 0 ∧ s.targetH ≠ 0 ∧ ∃ g, s.mem.src = some g ∧ g.w.toNat ≠ 0 ∧ g.h.toNat ≠ 0 ∧
      (g.ch = 1#8 ∨ g.ch = 3#8) ∧ t = s.withMem { s.mem with nrm := some (g.coverFit s.cfg.tw s.cfg.th) } := by
  unfold normalizeBody at h
  split_ifs at h with h1
  split at h
  · cases h
  · rename_i g hg
    split_ifs at h with h2 h3
    push Not at h1 h2
    exact ⟨h1.1, h1.2, g, hg, h2.1, h2.2, h3, by cases h; rfl⟩

theorem normalizeBody_complete {s : State} {g : Image} (h1 : s.targetW ≠ 0) (h2 : s.targetH ≠ 0)
    (hs : s.mem.src = some g) (hw : g.w.toNat ≠ 0) (hh : g.h.toNat ≠ 0) (hc : g.ch = 1#8 ∨ g.ch = 3#8) :
    normalizeBody s = .ok (s.withMem { s.mem with nrm := some (g.coverFit s.cfg.tw s.cfg.th) }) := by
  simp [normalizeBody, h1, h2, hs, hw, hh, hc]

/-- An offset of the crop window as a natural number (R115). -/
theorem cropOffset_eq (scaled target : Nat) : cropOffset scaled target = (scaled - target) / 2 := by
  unfold cropOffset; omega

/-- What NORMALIZE can raise (R261). -/
theorem normalizeBody_error {s : State} {e : Err} (h : normalizeBody s = .error e) :
    (e = .config ∧ (s.targetW = 0 ∨ s.targetH = 0)) ∨
    (e = .imageLoad ∧ s.targetW ≠ 0 ∧ s.targetH ≠ 0 ∧
      ∀ g, s.mem.src = some g → g.w.toNat = 0 ∨ g.h.toNat = 0 ∨ ¬(g.ch = 1#8 ∨ g.ch = 3#8)) := by
  unfold normalizeBody at h
  split_ifs at h with h1
  · exact .inl ⟨by cases h; rfl, h1⟩
  · push Not at h1
    right
    split at h
    · rename_i hg
      exact ⟨by cases h; rfl, h1.1, h1.2, fun g e => by rw [hg] at e; cases e⟩
    · rename_i g hg
      split_ifs at h with h2 h3
      · exact ⟨by cases h; rfl, h1.1, h1.2, fun g' e => by
          rw [hg] at e; cases e; rcases h2 with h2 | h2 <;> simp [h2]⟩
      · exact ⟨by cases h; rfl, h1.1, h1.2, fun g' e => by rw [hg] at e; cases e; exact .inr (.inr h3)⟩

@[simp] theorem coverFit_w (g : Image) (tw th : Dim) : (g.coverFit tw th).w = tw := rfl
@[simp] theorem coverFit_h (g : Image) (tw th : Dim) : (g.coverFit tw th).h = th := rfl
@[simp] theorem coverFit_ch (g : Image) (tw th : Dim) : (g.coverFit tw th).ch = g.ch := rfl

theorem coverFit_wf {g : Image} {tw th : Dim} (hw : tw.toNat ≠ 0) (hh : th.toNat ≠ 0) (hc : g.ch = 1#8 ∨ g.ch = 3#8) :
    (g.coverFit tw th).normalizedWf = true := by
  refine decide_eq_true ⟨?_, ?_, hc, ?_⟩
  · rw [coverFit_w]; omega
  · rw [coverFit_h]; omega
  · simp [Image.coverFit]

/-- Sample (x, y, c) of NRM is sample (left + x, top + y, c) of the resized image (R110). -/
theorem coverFit_sample (g : Image) (tw th : Dim) {x y c : Nat} (hx : x < tw.toNat) (hy : y < th.toNat)
    (hc : c < g.ch.toNat) :
    (g.coverFit tw th).sample x y c =
      let scale := coverScale g.w.toNat g.h.toNat tw.toNat th.toNat
      let sw := scaledSide g.w.toNat scale
      let sh := scaledSide g.h.toNat scale
      g.resample g.constants sw sh (cropOffset sw tw.toNat + x) (cropOffset sh th.toNat + y) c := by
  simp only [Image.sample, Image.coverFit]
  exact imageOf_getD _ _ hx hy hc

/-! ### TOGRAY, ADJUST -/

theorem toGrayBody_ok {s t : State} (h : toGrayBody s = .ok t) :
    ∃ g, s.mem.nrm = some g ∧ t = s.withMem { s.mem with pix := some (g.toGrayWith luma) } := by
  unfold toGrayBody at h
  split at h
  · cases h
  · rename_i g hg; exact ⟨g, hg, by cases h; rfl⟩

theorem toGrayBody_complete {s : State} {g : Image} (h : s.mem.nrm = some g) :
    toGrayBody s = .ok (s.withMem { s.mem with pix := some (g.toGrayWith luma) }) := by
  simp only [toGrayBody, h]

theorem toGrayBody_error {s : State} {e : Err} (h : toGrayBody s = .error e) : e = .sequence ∧ s.mem.nrm = none := by
  unfold toGrayBody at h
  split at h
  · rename_i hg; exact ⟨by cases h; rfl, hg⟩
  · cases h

theorem toGrayWith_wf {lum : Byte → Byte → Byte → Byte} {g : Image} (hg : g.normalizedWf = true) :
    (g.toGrayWith lum).wf = true := by
  simp only [Image.normalizedWf, decide_eq_true_eq] at hg
  refine decide_eq_true ⟨hg.1, hg.2.1, ?_⟩
  simp only [Image.toGrayWith]
  split_ifs <;> simp

/-- A cell of a one-channel image's grid is its sample (R131). -/
theorem toGrayWith_cell_gray (lum : Byte → Byte → Byte → Byte) {g : Image} (hc : g.ch = 1#8) {x y : Nat}
    (hx : x < g.w.toNat) (hy : y < g.h.toNat) : (g.toGrayWith lum).cell x y = g.sample x y 0 := by
  simp only [Grid.cell, Image.toGrayWith, hc, if_true]; exact gridOf_getD _ _ hx hy

/-- A cell of a colour image's grid is LUMA of its three samples (R130, R132). -/
theorem toGrayWith_cell_colour (lum : Byte → Byte → Byte → Byte) {g : Image} (hc : g.ch ≠ 1#8) {x y : Nat}
    (hx : x < g.w.toNat) (hy : y < g.h.toNat) :
    (g.toGrayWith lum).cell x y = lum (g.sample x y 0) (g.sample x y 1) (g.sample x y 2) := by
  simp only [Grid.cell, Image.toGrayWith, hc, if_false]; exact gridOf_getD _ _ hx hy

theorem adjustBody_ok {s t : State} (h : adjustBody s = .ok t) :
    ∃ g, s.mem.pix = some g ∧ t = s.withMem { s.mem with pix := some (g.adjusted s.cfg.contrast s.cfg.bright) } := by
  unfold adjustBody at h
  split at h
  · cases h
  · rename_i g hg; exact ⟨g, hg, by cases h; rfl⟩

theorem adjustBody_complete {s : State} {g : Grid} (h : s.mem.pix = some g) :
    adjustBody s = .ok (s.withMem { s.mem with pix := some (g.adjusted s.cfg.contrast s.cfg.bright) }) := by
  simp only [adjustBody, h]

theorem adjustBody_error {s : State} {e : Err} (h : adjustBody s = .error e) : e = .sequence ∧ s.mem.pix = none := by
  unfold adjustBody at h
  split at h
  · rename_i hg; exact ⟨by cases h; rfl, hg⟩
  · cases h

theorem adjusted_wf {g : Grid} (c b : Factor) (hg : g.wf = true) : (g.adjusted c b).wf = true := by
  simp only [Grid.wf, decide_eq_true_eq] at *
  exact ⟨hg.1, hg.2.1, by simp [Grid.adjusted]⟩

/-- A cell of the adjusted grid depends on the same cell of the old one alone (R30, R136). -/
theorem adjusted_cell {g : Grid} (c b : Factor) {x y : Nat} (hx : x < g.w.toNat) (hy : y < g.h.toNat) :
    (g.adjusted c b).cell x y = toneSample c b (g.cell x y) := by
  simp only [Grid.cell, Grid.adjusted]; exact gridOf_getD _ _ hx hy

/-! ### QUANT -/

theorem quantBody_ok {domain : Nat → Bool} {levels : Grid → List Level} {s t : State}
    (h : quantBody domain levels s = .ok t) :
    (s.levelCount = 2 ∨ s.levelCount = 4) ∧ domain s.levelCount = true ∧ ∃ g, s.mem.pix = some g ∧
      t = s.withMem { s.mem with qnt := some { w := g.w, h := g.h, levels := s.cfg.levels, cells := levels g } } := by
  unfold quantBody at h
  split_ifs at h with h1 h2
  split at h
  · cases h
  · rename_i g hg; exact ⟨by tauto, by simpa using h2, g, hg, by cases h; rfl⟩

/-- What a QUANT command can raise, the level count before the grid (R150, R261). -/
theorem quantBody_error {domain : Nat → Bool} {levels : Grid → List Level} {s : State} {e : Err}
    (h : quantBody domain levels s = .error e) :
    (e = .unsupportedLevels ∧ ¬((s.levelCount = 2 ∨ s.levelCount = 4) ∧ domain s.levelCount = true)) ∨
    (e = .sequence ∧ (s.levelCount = 2 ∨ s.levelCount = 4) ∧ domain s.levelCount = true ∧ s.mem.pix = none) := by
  unfold quantBody at h
  split_ifs at h with h1 h2
  · exact .inl ⟨by cases h; rfl, by simp [h2]⟩
  · split at h
    · rename_i hg; exact .inr ⟨by cases h; rfl, h1, by simpa using h2, hg⟩
    · cases h
  · exact .inl ⟨by cases h; rfl, fun h => h1 h.1⟩

theorem quantBody_complete {domain : Nat → Bool} {levels : Grid → List Level} {s : State} {g : Grid}
    (h1 : s.levelCount = 2 ∨ s.levelCount = 4) (h2 : domain s.levelCount = true) (hg : s.mem.pix = some g) :
    quantBody domain levels s =
      .ok (s.withMem { s.mem with qnt := some { w := g.w, h := g.h, levels := s.cfg.levels, cells := levels g } }) := by
  simp [quantBody, h1, h2, hg]

theorem toLevel_toNat {v : Int} {n : Nat} (h0 : 0 ≤ v) (h1 : v ≤ (n : Int) - 1) (hn : n ≤ 4) :
    ((toLevel v).toNat : Int) = v := by
  unfold toLevel; rw [BitVec.toNat_ofNat]; omega

theorem nearestLevel_bounds {n : Nat} (hn : 1 ≤ n) (old : Rat) : 0 ≤ nearestLevel n old ∧ nearestLevel n old ≤ (n : Int) - 1 :=
  clamp_bounds _ _ _ (by omega)

@[simp] theorem ditherFrom_length (n w h count i : Nat) (work : List Rat) :
    (ditherFrom n w h count i work).length = count := by
  induction count generalizing i work with
  | zero => rfl
  | succ count ih => simp [ditherFrom, ih]

theorem ditherFrom_small {n : Nat} (hn : 1 ≤ n) (hn4 : n ≤ 4) (w h count i : Nat) (work : List Rat) :
    ∀ q ∈ ditherFrom n w h count i work, q.toNat < n := by
  induction count generalizing i work with
  | zero => simp [ditherFrom]
  | succ count ih =>
    intro q hq
    rcases List.mem_cons.1 hq with rfl | hq
    · have hb := nearestLevel_bounds hn (work.getD i 0)
      have := toLevel_toNat hb.1 hb.2 hn4
      omega
    · exact ih _ _ q hq

theorem thresholdLevel_small (t v : Byte) : (thresholdLevel t v).toNat < 2 := by
  unfold thresholdLevel; split_ifs <;> decide

theorem uniformLevel_toNat (v : Byte) : (uniformLevel 4 v).toNat = v.toNat / 64 := by
  have hv : v.toNat < 256 := v.isLt
  have hc : clamp (((v.toNat : Int) * 4) / 256) 0 3 = v.toNat / 64 := by
    rw [clamp_of_mem] <;> omega
  have : ((uniformLevel 4 v).toNat : Int) = v.toNat / 64 := by
    show ((toLevel (clamp (((v.toNat : Int) * (4 : Nat)) / 256) 0 (((4 : Nat) : Int) - 1))).toNat : Int) = _
    have e : clamp (((v.toNat : Int) * (4 : Nat)) / 256) 0 (((4 : Nat) : Int) - 1) = v.toNat / 64 := by
      push_cast; exact hc
    rw [e]
    exact toLevel_toNat (n := 4) (by omega) (by omega) (by norm_num)
  omega

/-- A quantized grid in canonical form, from a grid in canonical form and cells that are as many and below the level
count (R26, R172). -/
theorem quantized_wf {g : Grid} {lv : BitVec 8} {cells : List Level} (hg : g.wf = true) (hl : lv = 2#8 ∨ lv = 4#8)
    (hlen : cells.length = g.w.toNat * g.h.toNat) (hc : ∀ q ∈ cells, q.toNat < lv.toNat) :
    QGrid.wf { w := g.w, h := g.h, levels := lv, cells := cells } = true := by
  simp only [Grid.wf, decide_eq_true_eq] at hg
  simp only [QGrid.wf, decide_eq_true_eq]
  exact ⟨hg.1, hg.2.1, hl, hlen, hc⟩

theorem levels_of_count {s : State} {n : Nat} (h : s.levelCount = n) : s.cfg.levels = BitVec.ofNat 8 n := by
  rw [← h]; simp [State.levelCount]

theorem thresholded_cells (t : Byte) (g : Grid) :
    (g.thresholded t).length = g.w.toNat * g.h.toNat ∧ ∀ q ∈ g.thresholded t, q.toNat < 2 := by
  refine ⟨by simp [Grid.thresholded], fun q hq => ?_⟩
  obtain ⟨x, y, -, -, rfl⟩ := mem_gridOf hq
  exact thresholdLevel_small _ _

theorem uniform_cells (g : Grid) :
    (g.uniform 4).length = g.w.toNat * g.h.toNat ∧ ∀ q ∈ g.uniform 4, q.toNat < 4 :=
  ⟨by simp [Grid.uniform], fun q _ => q.isLt⟩

theorem dithered_cells {n : Nat} (hn : n = 2 ∨ n = 4) (g : Grid) :
    (g.dithered n).length = g.w.toNat * g.h.toNat ∧ ∀ q ∈ g.dithered n, q.toNat < n :=
  ⟨by simp [Grid.dithered], ditherFrom_small (by omega) (by omega) _ _ _ _ _⟩

/-! ### PACK -/

theorem packBody_ok {bpp : Nat} {field : Level → Byte} {s t : State} (h : packBody bpp field s = .ok t) :
    ∃ g, s.mem.qnt = some g ∧ g.levels.toNat = 2 ^ bpp ∧
      t = s.withMem { s.mem with buf := some (g.packed bpp field) } := by
  unfold packBody at h
  split at h
  · cases h
  · rename_i g hg
    split_ifs at h with h1
    exact ⟨g, hg, h1, by cases h; rfl⟩

theorem packBody_complete {bpp : Nat} {field : Level → Byte} {s : State} {g : QGrid} (hg : s.mem.qnt = some g)
    (h : g.levels.toNat = 2 ^ bpp) :
    packBody bpp field s = .ok (s.withMem { s.mem with buf := some (g.packed bpp field) }) := by
  simp only [packBody, hg, h, if_true]

/-- What a PACK command can raise (R181, R261). -/
theorem packBody_error {bpp : Nat} {field : Level → Byte} {s : State} {e : Err} (h : packBody bpp field s = .error e) :
    (e = .sequence ∧ s.mem.qnt = none) ∨
    (e = .unsupportedLevels ∧ ∃ g, s.mem.qnt = some g ∧ g.levels.toNat ≠ 2 ^ bpp) := by
  unfold packBody at h
  split at h
  · rename_i hg; exact .inl ⟨by cases h; rfl, hg⟩
  · rename_i g hg
    split_ifs at h with h1
    exact .inr ⟨by cases h; rfl, g, hg, h1⟩

/-! ### UNPACK, DETECT -/

theorem unpackBody_ok {bpp : Nat} {f : Byte → Byte} {p : Config.ShortPolicy} {s t : State}
    (h : unpackBody bpp f p s = .ok t) :
    s.targetW ≠ 0 ∧ s.targetH ≠ 0 ∧ ∃ bytes, s.mem.vbuf = some bytes ∧
      t = (s.withMem { s.mem with dec := some (unpackedGrid bpp f p bytes s.cfg.tw s.cfg.th) }).withLength
        (shortFlag bytes.length (expectedBytes bpp s.targetW s.targetH))
        (longFlag bytes.length (expectedBytes bpp s.targetW s.targetH))
        (consumedCount bytes.length (expectedBytes bpp s.targetW s.targetH)) := by
  unfold unpackBody at h
  split_ifs at h with h1
  push Not at h1
  split at h
  · cases h
  · rename_i bytes hb
    exact ⟨h1.1, h1.2, bytes, hb, by cases h; rfl⟩

theorem unpackBody_complete {bpp : Nat} {f : Byte → Byte} {p : Config.ShortPolicy} {s : State} {bytes : List Byte}
    (h1 : s.targetW ≠ 0) (h2 : s.targetH ≠ 0) (hb : s.mem.vbuf = some bytes) :
    unpackBody bpp f p s =
      .ok ((s.withMem { s.mem with dec := some (unpackedGrid bpp f p bytes s.cfg.tw s.cfg.th) }).withLength
        (shortFlag bytes.length (expectedBytes bpp s.targetW s.targetH))
        (longFlag bytes.length (expectedBytes bpp s.targetW s.targetH))
        (consumedCount bytes.length (expectedBytes bpp s.targetW s.targetH))) := by
  simp [unpackBody, h1, h2, hb]

/-- What an UNPACK command can raise (R201, R261). -/
theorem unpackBody_error {bpp : Nat} {f : Byte → Byte} {p : Config.ShortPolicy} {s : State} {e : Err}
    (h : unpackBody bpp f p s = .error e) :
    (e = .config ∧ (s.targetW = 0 ∨ s.targetH = 0)) ∨
    (e = .sequence ∧ s.targetW ≠ 0 ∧ s.targetH ≠ 0 ∧ s.mem.vbuf = none) := by
  unfold unpackBody at h
  split_ifs at h with h1
  · exact .inl ⟨by cases h; rfl, h1⟩
  · push Not at h1
    split at h
    · rename_i hb; exact .inr ⟨by cases h; rfl, h1.1, h1.2, hb⟩
    · cases h

theorem intensity1_decoded (f : Byte) : decodedIntensity (intensity1 f) = true := by
  unfold intensity1; split_ifs <;> decide

theorem intensity2_decoded (b : Byte) (k : Nat) : decodedIntensity (intensity2 (fieldAt 2 b k)) = true := by
  unfold fieldAt
  generalize b >>> fieldShift 2 k = c
  have : ∀ c : Byte, decodedIntensity (intensity2 (c &&& BitVec.ofNat 8 (2 ^ 2 - 1))) = true := by decide
  exact this c

theorem unpackedGrid_wf {bpp : Nat} {f : Byte → Byte} {p : Config.ShortPolicy} {bytes : List Byte} {w h : Dim}
    (hw : w.toNat ≠ 0) (hh : h.toNat ≠ 0) (hf : ∀ b k, decodedIntensity (f (fieldAt bpp b k)) = true) :
    (unpackedGrid bpp f p bytes w h).wf = true := by
  simp only [DecGrid.wf, unpackedGrid, Bool.and_eq_true, decide_eq_true_eq, List.all_eq_true, gridOf_length]
  refine ⟨⟨by omega, by omega, trivial⟩, fun c hc => ?_⟩
  obtain ⟨x, y, -, -, rfl⟩ := mem_gridOf hc
  unfold unpackPixel
  cases byteOrFill p bytes _ with
  | none => rfl
  | some b => exact hf b _

/-- Cell (x, y) of the decoded grid (R201). -/
theorem unpackedGrid_cell (bpp : Nat) (f : Byte → Byte) (p : Config.ShortPolicy) (bytes : List Byte) (w h : Dim)
    {x y : Nat} (hx : x < w.toNat) (hy : y < h.toNat) :
    (unpackedGrid bpp f p bytes w h).cell x y = unpackPixel bpp f p bytes w.toNat x y :=
  gridOf_getD _ _ hx hy

theorem detectBody_ok {s t : State} (h : detectBody s = .ok t) :
    s.targetW ≠ 0 ∧ s.targetH ≠ 0 ∧ ∃ bytes, s.mem.vbuf = some bytes ∧
      ((bytes.length = expectedBytes 1 s.targetW s.targetH ∧ t = s.withVbpp 1) ∨
       (bytes.length ≠ expectedBytes 1 s.targetW s.targetH ∧ bytes.length = expectedBytes 2 s.targetW s.targetH ∧
        t = s.withVbpp 2)) := by
  unfold detectBody at h
  split_ifs at h with h1
  push Not at h1
  split at h
  · cases h
  · rename_i bytes hb
    refine ⟨h1.1, h1.2, bytes, hb, ?_⟩
    split_ifs at h with h2 h3
    · exact .inl ⟨h2, by cases h; rfl⟩
    · exact .inr ⟨h2, h3, by cases h; rfl⟩

/-- What DETECT can raise (R208, R261). -/
theorem detectBody_error {s : State} {e : Err} (h : detectBody s = .error e) :
    (e = .config ∧ (s.targetW = 0 ∨ s.targetH = 0)) ∨
    (e = .sequence ∧ s.targetW ≠ 0 ∧ s.targetH ≠ 0 ∧ s.mem.vbuf = none) ∨
    (e = .sizeMismatch ∧ s.targetW ≠ 0 ∧ s.targetH ≠ 0 ∧ ∃ bytes, s.mem.vbuf = some bytes ∧
      bytes.length ≠ expectedBytes 1 s.targetW s.targetH ∧ bytes.length ≠ expectedBytes 2 s.targetW s.targetH) := by
  unfold detectBody at h
  split_ifs at h with h1
  · exact .inl ⟨by cases h; rfl, h1⟩
  · push Not at h1
    split at h
    · rename_i hb; exact .inr (.inl ⟨by cases h; rfl, h1.1, h1.2, hb⟩)
    · rename_i bytes hb
      split_ifs at h with h2 h3
      exact .inr (.inr ⟨by cases h; rfl, h1.1, h1.2, bytes, hb, h2, h3⟩)

/-! ### CONVERT -/

theorem bind_ok {r : Except Err State} {f : State → Except Err State} {t : State} (h : (r >>= f) = .ok t) :
    ∃ u, r = .ok u ∧ f u = .ok t := by
  cases r with
  | ok u => exact ⟨u, rfl, h⟩
  | error e => cases h

theorem bind_error {r : Except Err State} {f : State → Except Err State} {e : Err} (h : (r >>= f) = .error e) :
    r = .error e ∨ ∃ u, r = .ok u ∧ f u = .error e := by
  cases r with
  | ok u => exact .inr ⟨u, rfl, h⟩
  | error e' => exact .inl h

@[simp] theorem ok_bind (u : State) (f : State → Except Err State) : ((Except.ok u : Except Err State) >>= f) = f u := rfl
@[simp] theorem error_bind (e : Err) (f : State → Except Err State) :
    ((Except.error e : Except Err State) >>= f) = .error e := rfl

theorem convertBody_ok {s t : State} (h : convertBody s = .ok t) :
    ∃ u, convertStages s = .ok u ∧ t = u.withMem u.mem.withoutIntermediates := by
  obtain ⟨u, h1, h2⟩ := bind_ok h
  exact ⟨u, h1, by cases h2; rfl⟩

theorem convertStages_ok {s t : State} (h : convertStages s = .ok t) :
    (s.levelCount = 2 ∨ s.levelCount = 4) ∧
      ∃ u v, normalizeBody s = .ok u ∧ toGrayBody u = .ok v ∧ convertTail v = .ok t := by
  unfold convertStages at h
  split_ifs at h with h1
  obtain ⟨u, hu, h⟩ := bind_ok h
  obtain ⟨v, hv, h⟩ := bind_ok h
  exact ⟨by tauto, u, v, hu, hv, h⟩

/-! ### Every body keeps the canonical form -/

theorem normalizeBody_keeps_wf {s t : State} (hs : s.mem.wf = true) (h : normalizeBody s = .ok t) : t.mem.wf = true := by
  obtain ⟨hw, hh, g, -, -, -, hc, rfl⟩ := normalizeBody_ok h
  exact wf_withNrm hs (by rintro _ ⟨⟩; exact coverFit_wf hw hh hc)

theorem toGrayBody_keeps_wf {s t : State} (hs : s.mem.wf = true) (h : toGrayBody s = .ok t) : t.mem.wf = true := by
  obtain ⟨g, hg, rfl⟩ := toGrayBody_ok h
  exact wf_withPix hs (by rintro _ ⟨⟩; exact toGrayWith_wf (((memory_wf_iff _).1 hs).2.1 g hg))

theorem adjustBody_keeps_wf {s t : State} (hs : s.mem.wf = true) (h : adjustBody s = .ok t) : t.mem.wf = true := by
  obtain ⟨g, hg, rfl⟩ := adjustBody_ok h
  exact wf_withPix hs (by rintro _ ⟨⟩; exact adjusted_wf _ _ (((memory_wf_iff _).1 hs).2.2.1 g hg))

theorem quantBody_keeps_wf {domain : Nat → Bool} {levels : Grid → List Level} {s t : State} (hs : s.mem.wf = true)
    (hl : ∀ g : Grid, domain s.levelCount = true → (s.levelCount = 2 ∨ s.levelCount = 4) →
      (levels g).length = g.w.toNat * g.h.toNat ∧ ∀ q ∈ levels g, q.toNat < s.levelCount)
    (h : quantBody domain levels s = .ok t) : t.mem.wf = true := by
  obtain ⟨h1, h2, g, hg, rfl⟩ := quantBody_ok h
  refine wf_withQnt hs ?_
  rintro _ ⟨⟩
  refine quantized_wf (((memory_wf_iff _).1 hs).2.2.1 g hg) ?_ (hl g h2 h1).1 (hl g h2 h1).2
  rcases h1 with h1 | h1
  · exact .inl (levels_of_count h1)
  · exact .inr (levels_of_count h1)

theorem quantThreshBody_keeps_wf {s t : State} (hs : s.mem.wf = true) (h : quantThreshBody s = .ok t) :
    t.mem.wf = true := by
  refine quantBody_keeps_wf hs (fun g hd _ => ?_) h
  have : s.levelCount = 2 := by simpa using hd
  rw [this]; exact thresholded_cells _ g

theorem quantUniformBody_keeps_wf {s t : State} (hs : s.mem.wf = true) (h : quantUniformBody s = .ok t) :
    t.mem.wf = true := by
  refine quantBody_keeps_wf hs (fun g hd _ => ?_) h
  have : s.levelCount = 4 := by simpa using hd
  rw [this]; exact uniform_cells g

theorem quantDitherBody_keeps_wf {s t : State} (hs : s.mem.wf = true) (h : quantDitherBody s = .ok t) :
    t.mem.wf = true :=
  quantBody_keeps_wf hs (fun g _ hn => dithered_cells hn g) h

theorem pack1Body_keeps_wf {s t : State} (hs : s.mem.wf = true) (h : pack1Body s = .ok t) : t.mem.wf = true := by
  obtain ⟨g, hg, -, rfl⟩ := packBody_ok h
  exact wf_withBuf hs (by rintro _ ⟨⟩; exact packed_wf (.inl rfl) blackBit_small (((memory_wf_iff _).1 hs).2.2.2.1 g hg))

theorem pack2Body_keeps_wf {s t : State} (hs : s.mem.wf = true) (h : pack2Body s = .ok t) : t.mem.wf = true := by
  obtain ⟨g, hg, -, rfl⟩ := packBody_ok h
  exact wf_withBuf hs (by rintro _ ⟨⟩; exact packed_wf (.inr rfl) levelField_small (((memory_wf_iff _).1 hs).2.2.2.1 g hg))

theorem unpackBody_keeps_wf {bpp : Nat} {f : Byte → Byte} {p : Config.ShortPolicy} {s t : State} (hs : s.mem.wf = true)
    (hf : ∀ b k, decodedIntensity (f (fieldAt bpp b k)) = true) (h : unpackBody bpp f p s = .ok t) : t.mem.wf = true := by
  obtain ⟨hw, hh, bytes, -, rfl⟩ := unpackBody_ok h
  exact wf_withDec hs (by rintro _ ⟨⟩; exact unpackedGrid_wf hw hh hf)

theorem unpack1Body_keeps_wf {s t : State} (hs : s.mem.wf = true) (h : unpack1Body s = .ok t) : t.mem.wf = true :=
  unpackBody_keeps_wf hs (fun _ _ => intensity1_decoded _) h

theorem unpack2Body_keeps_wf {s t : State} (hs : s.mem.wf = true) (h : unpack2Body s = .ok t) : t.mem.wf = true :=
  unpackBody_keeps_wf hs (fun _ _ => intensity2_decoded _ _) h

theorem detectBody_keeps_mem {s t : State} (h : detectBody s = .ok t) : t.mem = s.mem := by
  obtain ⟨-, -, bytes, -, ⟨-, rfl⟩ | ⟨-, -, rfl⟩⟩ := detectBody_ok h <;> rfl

theorem convertTail_keeps_wf {s t : State} (hs : s.mem.wf = true) (h : convertTail s = .ok t) : t.mem.wf = true := by
  unfold convertTail at h
  split_ifs at h
  · obtain ⟨u, hu, h⟩ := bind_ok h
    obtain ⟨v, hv, h⟩ := bind_ok h
    exact pack1Body_keeps_wf (quantDitherBody_keeps_wf (adjustBody_keeps_wf hs hu) hv) h
  · obtain ⟨u, hu, h⟩ := bind_ok h
    exact pack1Body_keeps_wf (quantThreshBody_keeps_wf hs hu) h
  · obtain ⟨u, hu, h⟩ := bind_ok h
    exact pack2Body_keeps_wf (quantUniformBody_keeps_wf hs hu) h

theorem convertBody_keeps_wf {s t : State} (hs : s.mem.wf = true) (h : convertBody s = .ok t) : t.mem.wf = true := by
  obtain ⟨u, hu, rfl⟩ := convertBody_ok h
  obtain ⟨-, v, w, hv, hw, ht⟩ := convertStages_ok hu
  have := convertTail_keeps_wf (toGrayBody_keeps_wf (normalizeBody_keeps_wf hs hv) hw) ht
  have hn : ∀ {α : Type} {p : α → Prop}, ∀ g, (none : Option α) = some g → p g := by rintro _ _ _ ⟨⟩
  exact wf_withQnt (wf_withPix (wf_withNrm this hn) hn) hn

theorem finish_keeps_wf {d : ErrDest} {r : Except Err State} {s t : State} (hs : s.mem.wf = true)
    (hr : ∀ u, r = .ok u → u.mem.wf = true) (h : finish d r s = .next t) : t.mem.wf = true := by
  obtain ⟨u, hu, rfl⟩ | ⟨e, -, rfl⟩ := finish_cases h
  · exact hr u hu
  · exact raise_keeps_wf hs

end Sys2Proof.Machine
end

