-- ==== Sys2Proof/Laws/Dither.lean ====
section
/-! SUPPORT. The work buffer of the error-diffusion pass (spec/42_quantize.md R158 to R160): its length, every cell after
one visit, and how an addition changes its sum. -/

namespace Sys2Proof.Machine

@[simp] theorem addAt_length (j : Nat) (v : Rat) (work : List Rat) : (addAt j v work).length = work.length := by
  simp [addAt]

theorem addAt_getD (j : Nat) (v : Rat) {k : Nat} {work : List Rat} (hk : k < work.length) :
    (addAt j v work).getD k 0 = work.getD k 0 + (if j = k then v else 0) := by
  simp only [addAt, List.getD_eq_getElem?_getD, List.getElem?_modify]
  split_ifs with h <;> simp [hk]

theorem addAt_sum (j : Nat) (v : Rat) {work : List Rat} (hj : j < work.length) : (addAt j v work).sum = work.sum + v := by
  unfold addAt
  induction work generalizing j with
  | nil => simp at hj
  | cons a work ih =>
    cases j with
    | zero => simp [List.modify_zero_cons]; ring
    | succ j => simp [List.modify_succ_cons, ih j (by simpa using hj)]; ring

theorem addAt_if_length (c : Prop) [Decidable c] (j : Nat) (v : Rat) (work : List Rat) :
    (if c then addAt j v work else work).length = work.length := by
  split_ifs <;> simp

theorem addAt_if_getD (c : Prop) [Decidable c] (j : Nat) (v : Rat) {k : Nat} {work : List Rat} (hk : k < work.length) :
    (if c then addAt j v work else work).getD k 0 = work.getD k 0 + (if c ∧ j = k then v else 0) := by
  by_cases hc : c
  · simp only [hc, if_true, true_and]; exact addAt_getD _ _ hk
  · simp [hc]

theorem diffuse_length (w h x y : Nat) (e : Rat) (work : List Rat) : (diffuse w h x y e work).length = work.length := by
  unfold diffuse; simp only [addAt_if_length]

/-- Two places of a grid have one index only if they are the same place. -/
theorem row_index_inj {w x y x' y' : Nat} (hx : x < w) (hx' : x' < w) : y * w + x = y' * w + x' ↔ x = x' ∧ y = y' := by
  constructor
  · intro h
    have h1 := congrArg (· % w) h
    have h2 := congrArg (· / w) h
    simp only [row_index_mod _ hx, row_index_mod _ hx', row_index_div _ hx, row_index_div _ hx'] at h1 h2
    exact ⟨h1, h2⟩
  · rintro ⟨rfl, rfl⟩; rfl

/-- Every cell of the work buffer after the visit of (x, y) with error e (R159, R160). -/
theorem diffuse_getD {w h x y a b : Nat} {e : Rat} {work : List Rat} (hl : work.length = w * h) (hx : x < w)
    (ha : a < w) (hb : b < h) :
    (diffuse w h x y e work).getD (b * w + a) 0 = work.getD (b * w + a) 0 +
      (if a = x + 1 ∧ b = y then e * (7 / 16)
       else if a + 1 = x ∧ b = y + 1 then e * (3 / 16)
       else if a = x ∧ b = y + 1 then e * (5 / 16)
       else if a = x + 1 ∧ b = y + 1 then e * (1 / 16)
       else 0) := by
  have hk := row_index_lt ha hb
  unfold diffuse
  dsimp only
  rw [addAt_if_getD _ _ _ (by simp only [addAt_if_length]; omega), addAt_if_getD _ _ _ (by simp only [addAt_if_length]; omega),
    addAt_if_getD _ _ _ (by simp only [addAt_if_length]; omega), addAt_if_getD _ _ _ (by omega)]
  have c1 : (x + 1 < w ∧ y * w + (x + 1) = b * w + a) ↔ (a = x + 1 ∧ b = y) := by
    constructor
    · rintro ⟨h1, h2⟩; rw [row_index_inj h1 ha] at h2; omega
    · rintro ⟨rfl, rfl⟩; exact ⟨ha, rfl⟩
  have c2 : ((1 ≤ x ∧ y + 1 < h) ∧ (y + 1) * w + (x - 1) = b * w + a) ↔ (a + 1 = x ∧ b = y + 1) := by
    constructor
    · rintro ⟨h1, h2⟩; rw [row_index_inj (by omega) ha] at h2; omega
    · rintro ⟨rfl, rfl⟩; exact ⟨⟨by omega, hb⟩, by simp⟩
  have c3 : (y + 1 < h ∧ (y + 1) * w + x = b * w + a) ↔ (a = x ∧ b = y + 1) := by
    constructor
    · rintro ⟨h1, h2⟩; rw [row_index_inj (by omega) ha] at h2; omega
    · rintro ⟨rfl, rfl⟩; exact ⟨hb, rfl⟩
  have c4 : ((x + 1 < w ∧ y + 1 < h) ∧ (y + 1) * w + (x + 1) = b * w + a) ↔ (a = x + 1 ∧ b = y + 1) := by
    constructor
    · rintro ⟨h1, h2⟩; rw [row_index_inj (by omega) ha] at h2; omega
    · rintro ⟨rfl, rfl⟩; exact ⟨⟨ha, hb⟩, rfl⟩
  simp only [c1, c2, c3, c4]
  split_ifs <;> first | omega | ring

end Sys2Proof.Machine
end

