-- ==== Sys2Proof/Laws/PerInstr.lean ====
section
/-! SUPPORT. The family `Encoding`: each command's word, as spec/opcode_table.json numbers its bits, decodes to the
command, and the command is well formed (spec/30_encoding.md R90, R92). -/

namespace Sys2Proof.Laws.Encoding

/-- The command is well formed and its 8-bit word of R92 decodes to it. -/
def Statement (i : Instr) : Prop := i.wellFormed = true ∧ decodeTableWord 8 (encode i).toNat = some i

theorem nop : Statement .nop := ⟨rfl, rfl⟩
theorem clear : Statement .clear := ⟨rfl, rfl⟩
theorem normalize : Statement .normalize := ⟨rfl, rfl⟩
theorem toGray : Statement .toGray := ⟨rfl, rfl⟩
theorem adjust : Statement .adjust := ⟨rfl, rfl⟩
theorem quantThresh : Statement .quantThresh := ⟨rfl, rfl⟩
theorem quantUniform : Statement .quantUniform := ⟨rfl, rfl⟩
theorem quantDither : Statement .quantDither := ⟨rfl, rfl⟩
theorem pack1 : Statement .pack1 := ⟨rfl, rfl⟩
theorem pack2 : Statement .pack2 := ⟨rfl, rfl⟩
theorem unpack1 : Statement .unpack1 := ⟨rfl, rfl⟩
theorem unpack2 : Statement .unpack2 := ⟨rfl, rfl⟩
theorem detect : Statement .detect := ⟨rfl, rfl⟩
theorem convert : Statement .convert := ⟨rfl, rfl⟩

end Sys2Proof.Laws.Encoding
end

