-- ==== Sys2Proof/Tests/Slice0.lean ====
section
/-! SUPPORT. Tests: the words of the encoding table, the well-formedness checks, the vectors of spec/95_test_vectors.md
(named by their ids), each one step on a small state; and for every obligation with hypotheses a concrete state and
operands that meet them, at the boundaries of its clauses. -/

namespace Sys2Proof.Tests

open Sys2Proof Sys2Proof.Machine Sys2Proof.Claims

/-! ### Small states -/

/-- A configuration: target, level count, dither flag, threshold; both factors 1.0. -/
def conf (tw th : Dim) (levels : BitVec 8) (dither : BitVec 1) (thresh : Byte) : ConfigRegs :=
  { tw := tw, th := th, levels := levels, dither := dither, thresh := thresh, bright := 0x0100, contrast := 0x0100 }

/-- A state with that configuration and those planes, all else as after reset. -/
def st (c : ConfigRegs) (m : Memory) : State := { State.resetWith c with mem := m }

/-- The same state with HOST's next primitive m. -/
def next (m : HostMove) (s : State) : State := s.withPending [m]

def onlySrc (w h : Dim) (ch : BitVec 8) (data : List Byte) : Memory := { Memory.empty with src := some ⟨w, h, ch, data⟩ }
def onlyNrm (w h : Dim) (ch : BitVec 8) (data : List Byte) : Memory := { Memory.empty with nrm := some ⟨w, h, ch, data⟩ }
def onlyPix (w h : Dim) (cells : List Byte) : Memory := { Memory.empty with pix := some ⟨w, h, cells⟩ }
def onlyQnt (w h : Dim) (levels : BitVec 8) (cells : List Level) : Memory :=
  { Memory.empty with qnt := some ⟨w, h, levels, cells⟩ }
def onlyVbuf (bytes : List Byte) : Memory := { Memory.empty with vbuf := some bytes }

/-- All seven planes valid and in canonical form; two DEC cells, the second without a value. -/
def fullMem : Memory :=
  { src := some ⟨2, 1, 3, [1, 2, 3, 4, 5, 6]⟩, nrm := some ⟨1, 2, 1, [7, 8]⟩, pix := some ⟨2, 1, [9, 10]⟩,
    qnt := some ⟨2, 1, 4, [3, 1]⟩, buf := some ⟨2, 1, 2, [0xD0]⟩, vbuf := some [0xD0, 0x11],
    dec := some ⟨2, 1, [some 255, none]⟩ }

def full : State := st (conf 2 1 4 0 128) fullMem

/-- The state a step leads to, if it leads to one. -/
def after (o : Host.Outcome State Fault Refusal) : Option State :=
  match o with
  | .next t => some t
  | _ => none

/-- The planes after a step. -/
def memAfter (o : Host.Outcome State Fault Refusal) : Option Memory := (after o).map State.mem

/-! ### Decoding: the words of R92 written out bit by bit, and R95 (section E of the vectors) -/

theorem test_decode_system : decode 0b00000000#8 = .ok .nop ∧ decode 0b00000001#8 = .ok .clear ∧
    decode 0b10000000#8 = .ok .convert := by decide
theorem test_decode_normalize : decode 0b00010000#8 = .ok .normalize := by decide
theorem test_decode_tone : decode 0b00100000#8 = .ok .toGray ∧ decode 0b00110000#8 = .ok .adjust := by decide
theorem test_decode_quantize : decode 0b01000001#8 = .ok .quantThresh ∧ decode 0b01000010#8 = .ok .quantUniform ∧
    decode 0b01000011#8 = .ok .quantDither := by decide
theorem test_decode_pack : decode 0b01010001#8 = .ok .pack1 ∧ decode 0b01010010#8 = .ok .pack2 := by decide
theorem test_decode_unpack : decode 0b01100001#8 = .ok .unpack1 ∧ decode 0b01100010#8 = .ok .unpack2 ∧
    decode 0b01110000#8 = .ok .detect := by decide
theorem test_decode_rejects_by_name : decode 0x90#8 = .error .reservedGroup ∧ decode 0xFF#8 = .error .reservedGroup ∧
    decode 0x02#8 = .error .reservedSelector ∧ decode 0x53#8 = .error .reservedSelector ∧
    decode 0x11#8 = .error .argNotZero ∧ decode 0x81#8 = .error .argNotZero := by decide
theorem test_section_E_illegal_words :
    ∀ c ∈ ([0x02, 0x0F, 0x11, 0x21, 0x31, 0x40, 0x44, 0x50, 0x53, 0x58, 0x60, 0x63, 0x71, 0x81, 0x90, 0xFF] : List Nat),
      decodeTableWord 8 c = none := by decide
theorem test_cmd_ignores_high_bits :
    step (next (.regWrite 0x00#8 0x00000110#32) full) = exec .normalize (full.withPending []) := rfl
theorem test_withFetchWord_runs_the_word :
    after (step (State.reset.withFetchWord 8 0x01)) = some State.reset := by decide

/-! ### Well-formedness: an ill-formed term for each check of R68 -/

theorem smoke_wellformed_load : (HostMove.planeLoad .src 1 1 1 [255]).wellFormed = true ∧
    (HostMove.planeLoad .src 0 9 255 []).wellFormed = true ∧ (HostMove.planeLoad .nrm 1 1 3 [0, 1, 2]).wellFormed = true ∧
    (HostMove.planeLoad .pix 2 1 77 [0, 1]).wellFormed = true ∧ (HostMove.planeLoad .vbuf 0 0 0 []).wellFormed = true := by
  decide
theorem smoke_sample_above_255 : (HostMove.planeLoad .src 1 1 1 [256]).wellFormed = false ∧
    (HostMove.planeLoad .nrm 1 1 1 [256]).wellFormed = false ∧ (HostMove.planeLoad .pix 1 1 0 [256]).wellFormed = false ∧
    (HostMove.planeLoad .vbuf 0 0 0 [256]).wellFormed = false := by decide
theorem smoke_src_width : (HostMove.planeLoad .src 65536 0 1 []).wellFormed = false := by decide
theorem smoke_src_height : (HostMove.planeLoad .src 0 65536 1 []).wellFormed = false := by decide
theorem smoke_src_channels : (HostMove.planeLoad .src 0 0 256 []).wellFormed = false := by decide
theorem smoke_src_length : (HostMove.planeLoad .src 1 1 1 []).wellFormed = false := by decide
theorem smoke_nrm_width : (HostMove.planeLoad .nrm 0 1 1 []).wellFormed = false := by decide
theorem smoke_nrm_height : (HostMove.planeLoad .nrm 1 0 1 []).wellFormed = false := by decide
theorem smoke_nrm_channels : (HostMove.planeLoad .nrm 1 1 2 [0, 0]).wellFormed = false := by decide
theorem smoke_nrm_length : (HostMove.planeLoad .nrm 1 1 3 [0]).wellFormed = false := by decide
theorem smoke_pix_width : (HostMove.planeLoad .pix 0 1 0 []).wellFormed = false := by decide
theorem smoke_pix_height : (HostMove.planeLoad .pix 1 0 0 []).wellFormed = false := by decide
theorem smoke_pix_length : (HostMove.planeLoad .pix 2 1 0 [0]).wellFormed = false := by decide
theorem smoke_not_loadable : (HostMove.planeLoad .qnt 1 1 2 [0]).wellFormed = false ∧
    (HostMove.planeLoad .buf 1 1 1 [0]).wellFormed = false ∧ (HostMove.planeLoad .dec 1 1 0 [0]).wellFormed = false := by
  decide
theorem smoke_not_droppable : (HostMove.planeDrop .nrm).wellFormed = false ∧ (HostMove.planeDrop .pix).wellFormed = false ∧
    (HostMove.planeDrop .qnt).wellFormed = false ∧ (HostMove.planeDrop .buf).wellFormed = false ∧
    (HostMove.planeDrop .dec).wellFormed = false := by decide

/-! ### Commands -/

/-- R230's example: after ERR = 2, NOP leaves ERR = 2. -/
theorem test_nop_keeps_err :
    after (exec .nop { State.reset with err := .unsupportedLevels }) = some { State.reset with err := .unsupportedLevels } := by
  decide
/-- R231's example: STATUS = 0x00000100 if only SRC is loaded. -/
theorem test_clear_leaves_src :
    (after (exec .clear { st (conf 1 1 2 0 0) (onlySrc 1 1 1 [5]) with err := .config, long := true })).map State.statusWord =
      some 0x00000100#32 := by decide

/-- NV14: 4×10 to 1×2, the tie 5/2 rounds up to 3. -/
theorem test_NV14 : scaledSide 4 (coverScale 4 10 1 2) = 1 ∧ scaledSide 10 (coverScale 4 10 1 2) = 3 ∧
    cropOffset 3 2 = 0 := by decide +kernel
/-- NV12: 1001×333 to 400×300, sizes and offsets; and NV7 with the constant 128 of S4 at one row. -/
theorem test_NV12 : scaledSide 1001 (coverScale 1001 333 400 300) = 902 ∧ cropOffset 902 400 = 251 ∧
    memAfter (exec .normalize (st (conf 2 1 4 0 0) (onlySrc 4 2 1 (List.replicate 8 128)))) =
      some { onlySrc 4 2 1 (List.replicate 8 128) with nrm := some ⟨2, 1, 1, [128, 128]⟩ } := by decide +kernel

/-- R130's example: ch = 1, sample 200 gives 200. -/
theorem test_toGray_passthrough :
    memAfter (exec .toGray (st (conf 1 1 2 0 0) (onlyNrm 2 1 1 [200, 3]))) =
      some { onlyNrm 2 1 1 [200, 3] with pix := some ⟨2, 1, [200, 3]⟩ } := by decide
/-- T1, T2, T3, T7, T11: the default LUMA. -/
theorem test_T_default_luma : lumaBt601 255 0 0 = 76 ∧ lumaBt601 0 255 0 = 150 ∧ lumaBt601 0 0 255 = 29 ∧
    lumaBt601 10 200 30 = 124 ∧ lumaBt601 255 0 255 = 105 := by decide

/-- A1, A4, A7, A16, A18, A19. -/
theorem test_A_samples : toneSample 0x0180 0x0140 200 = 255 ∧ toneSample 0x0180 0x0100 101 = 87 ∧
    toneSample 0xFFFF 0x0100 127 = 0 ∧ toneSample 0x0100 0xFFFF 1 = 255 ∧ toneSample 0x00CD 0x0133 100 = 125 ∧
    toneSample 0x0180 0x0080 200 = 118 := by decide
/-- The grid of program P4. -/
theorem test_adjust_P4 :
    memAfter (exec .adjust (st { conf 1 1 2 0 0 with contrast := 0x0180 } (onlyPix 4 2 [60, 120, 180, 240, 30, 90, 150, 210]))) =
      some (onlyPix 4 2 [26, 116, 206, 255, 0, 71, 161, 251]) := by decide

/-- Q1. -/
theorem test_Q1 :
    memAfter (exec .quantThresh (st (conf 1 1 2 0 128) (onlyPix 5 2 [200, 50, 128, 129, 0, 255, 127, 200, 130, 10]))) =
      some { onlyPix 5 2 [200, 50, 128, 129, 0, 255, 127, 200, 130, 10] with
        qnt := some ⟨5, 2, 2, [1, 0, 0, 1, 0, 1, 0, 1, 1, 0]⟩ } := by decide
/-- LEVELS = 4, QUANT.THRESH gives ERR = 2 and no QNT. -/
theorem test_thresh_with_four_levels :
    (after (exec .quantThresh (st (conf 1 1 4 0 128) (onlyPix 1 1 [3])))).map (fun t => (t.err.code, t.mem.qnt)) =
      some (2, none) := by decide
/-- Q3. -/
theorem test_Q3 :
    memAfter (exec .quantUniform (st (conf 1 1 4 1 0) (onlyPix 8 1 [0, 63, 64, 127, 128, 191, 192, 255]))) =
      some { onlyPix 8 1 [0, 63, 64, 127, 128, 191, 192, 255] with qnt := some ⟨8, 1, 4, [0, 0, 1, 1, 2, 2, 3, 3]⟩ } := by
  decide
/-- Q4, Q7, Q9. -/
theorem test_Q_dither_mono : Grid.dithered 2 ⟨4, 1, [100, 100, 100, 100]⟩ = [0, 1, 0, 0] ∧
    Grid.dithered 2 ⟨4, 2, [60, 120, 180, 240, 30, 90, 150, 210]⟩ = [0, 1, 1, 1, 0, 0, 0, 1] ∧
    Grid.dithered 2 ⟨3, 3, List.replicate 9 200⟩ = [1, 1, 1, 1, 0, 1, 1, 1, 1] := by decide +kernel
/-- Q8: 4 levels. -/
theorem test_Q8 :
    memAfter (exec .quantDither (st (conf 1 1 4 0 0) (onlyPix 4 2 [60, 120, 180, 240, 30, 90, 150, 210]))) =
      some { onlyPix 4 2 [60, 120, 180, 240, 30, 90, 150, 210] with qnt := some ⟨4, 2, 4, [1, 1, 2, 3, 0, 1, 2, 2]⟩ } := by
  decide +kernel

/-- K1. -/
theorem test_K1 :
    (memAfter (exec .pack1 (st (conf 9 9 4 0 0) (onlyQnt 5 2 2 [1, 0, 0, 1, 0, 1, 0, 1, 1, 0])))).map Memory.buf =
      some (some ⟨5, 2, 1, [0x68, 0x48]⟩) := by decide
/-- K6: two bytes per row. -/
theorem test_K6 :
    (memAfter (exec .pack1 (st (conf 9 9 4 0 0) (onlyQnt 9 1 2 [0, 1, 1, 1, 1, 1, 1, 1, 0])))).map Memory.buf =
      some (some ⟨9, 1, 1, [0x80, 0x80]⟩) := by decide
/-- K11. -/
theorem test_K11 :
    (memAfter (exec .pack2 (st (conf 9 9 2 0 0) (onlyQnt 3 2 4 [1, 2, 3, 3, 0, 1])))).map Memory.buf =
      some (some ⟨3, 2, 2, [0x6C, 0xC4]⟩) := by decide
/-- K9. -/
theorem test_K9 :
    (memAfter (exec .pack2 (st (conf 9 9 2 0 0) (onlyQnt 5 1 4 [3, 2, 1, 0, 3])))).map Memory.buf =
      some (some ⟨5, 1, 2, [0xE4, 0xC0]⟩) := by decide

/-- U2: padding bits are not read. -/
theorem test_U2 :
    (memAfter (exec .unpack1 (st (conf 5 1 3 0 0) (onlyVbuf [0x6F])))).map Memory.dec =
      some (some ⟨5, 1, [some 255, some 0, some 0, some 255, some 0]⟩) := by decide
/-- U7: SHORT, LONG, DCOUNT and the pixels whose byte is present. -/
theorem test_U7 :
    (after (exec .unpack1 (st (conf 5 2 3 0 0) (onlyVbuf [0x68])))).map (fun t => (t.short, t.long, t.dcount)) =
      some (true, false, 1) ∧
    (memAfter (exec .unpack1 (st (conf 5 2 3 0 0) (onlyVbuf [0x68])))).map (fun m => m.element .dec 2) =
      some (.ok 0) := by decide
/-- U7's second row under the two policies. -/
theorem test_U7_policies : unpackPixel 1 intensity1 .zeroFillBytes [0x68] 5 0 1 = some 255 ∧
    unpackPixel 1 intensity1 .stopEarly [0x68] 5 0 1 = none := by decide
/-- U6: the third byte is ignored. -/
theorem test_U6 :
    (after (exec .unpack2 (st (conf 5 1 3 0 0) (onlyVbuf [0x1B, 0xE4, 0xC0])))).map (fun t => (t.short, t.long, t.dcount,
      t.mem.dec)) =
      some (false, true, 2, some ⟨5, 1, [some 0, some 85, some 170, some 255, some 255]⟩) := by decide
/-- X5, X6, X7. -/
theorem test_X : (after (exec .detect (st (conf 5 2 3 0 0) (onlyVbuf [0, 0, 0, 0])))).map (fun t => (t.vbpp, t.err)) = some (2, .ok) ∧
    (after (exec .detect (st (conf 5 2 3 0 0) (onlyVbuf [0])))).map (fun t => (t.vbpp, t.err)) = some (0, .sizeMismatch) ∧
    (after (exec .detect (st (conf 4 3 3 0 0) (onlyVbuf [0, 0, 0])))).map (fun t => (t.vbpp, t.err)) = some (1, .ok) := by
  decide
/-- P1's CONVERT. -/
theorem test_convert_P1 :
    memAfter (exec .convert (st (conf 8 2 4 1 0) (onlySrc 16 4 1 (List.replicate 64 128)))) =
      some { onlySrc 16 4 1 (List.replicate 64 128) with buf := some ⟨8, 2, 2, [0xAA, 0xAA, 0xAA, 0xAA]⟩ } := by
  decide +kernel
/-- P3's last configuration on a one-channel source: BRIGHT = 0x0140 gives [0x40, 0x00]. -/
theorem test_convert_dithered :
    (memAfter (exec .convert (st { conf 2 2 2 1 0 with contrast := 0x0180, bright := 0x0140 }
      (onlySrc 4 4 1 (List.replicate 16 128))))).map Memory.buf = some (some ⟨2, 2, 1, [0x40, 0x00]⟩) := by
  decide +kernel

/-! ### The ports -/

/-- P5: the word 0x53 makes ERR = 6 and nothing else changes. -/
theorem test_illegal_word :
    after (step (next (.regWrite 0x00#8 0x53#32) full)) = some { full with err := .illegalCommand } := by decide
/-- STATUS of `full` with SHORT set and ERR = 3: V0 to V6, bit 4, code 3. -/
theorem test_status_word : ({ full with short := true, err := .sizeMismatch } : State).statusWord = 0x00007F13#32 := by
  decide
/-- R32: 0x2E is QLEVELS, 0x33 is BUF's len, 0x37 VBUF's len. -/
theorem test_attribute_registers : full.readReg 0x2E#8 = 4 ∧ full.readReg 0x33#8 = 1 ∧ full.readReg 0x37#8 = 2 := by decide
/-- A write stores the low bits. -/
theorem test_register_write : after (step (next (.regWrite 0x05#8 0xFFFFFFFE#32) full)) =
    some { full with cfg := conf 2 1 4 0 128 } := by decide

/-! ### Witnesses: for every obligation with hypotheses, a state and operands that meet them -/

theorem full_inv : Inv full := by unfold Inv; decide

theorem full_next_inv (m : HostMove) : Inv (next m full) := full_inv

theorem witness_WordDecodesExactlyToItsCommand : Instr.quantDither.wellFormed = true ∧ decode 0x43#8 = .ok .quantDither := by
  decide

theorem witness_StepRunsTheCommandWrittenToCmd :
    (State.reset.withFetchWord 8 0x80).pending = [.regWrite 0x00#8 0x80#32] ∧
    decode ((0x80#32).extractLsb' 0 8) = .ok .convert ∧ Instr.convert.wellFormed = true := by decide

theorem witness_IllegalWordTakesIllegalCommand :
    (next (.regWrite 0x00#8 0xFF#32) full).pending = [.regWrite 0x00#8 0xFF#32] ∧
    ∀ i : Instr, (0xFF#32).extractLsb' 0 8 ≠ encode i := ⟨rfl, by intro i; cases i <;> decide⟩

/-- The ends of every range of R95. -/
theorem witness_TwoHundredFortyTwoWordsAreIllegal :
    ∀ c ∈ ([0x02, 0x0F, 0x11, 0x1F, 0x40, 0x44, 0x4F, 0x50, 0x53, 0x5F, 0x60, 0x63, 0x6F, 0x71, 0x7F, 0x81, 0xFF] : List Nat),
      (0x02 ≤ c ∧ c ≤ 0x0F) ∨ (0x11 ≤ c ∧ c ≤ 0x1F) ∨ c = 0x40 ∨ (0x44 ≤ c ∧ c ≤ 0x4F) ∨ c = 0x50 ∨
      (0x53 ≤ c ∧ c ≤ 0x5F) ∨ c = 0x60 ∨ (0x63 ≤ c ∧ c ≤ 0x6F) ∨ (0x71 ≤ c ∧ c ≤ 0x7F) ∨ 0x81 ≤ c := by decide

theorem witness_IdleBlockKeepsAllState : State.reset.pending = [] := rfl

/-- A read/write register, a reserved one and a read-only one. -/
theorem witness_RegisterWriteStoresLowBitsOfThatRegisterOnly :
    (next (.regWrite 0x05#8 0xFFFFFFFF#32) full).pending = [.regWrite 0x05#8 0xFFFFFFFF#32] ∧ 0x05#8 ≠ 0x00#8 ∧
    writableWidth 5 = some 1 ∧ writableWidth 2 = some 16 ∧ writableWidth 8 = some 16 ∧ writableWidth 1 = none ∧
    writableWidth 9 = none := by decide

/-- The numbers of the clauses at their ends: 0x00 to 0x0A, both reserved ranges, the first and last plane's attributes. -/
theorem witness_RegisterReadReturnsItsValueAndChangesNothing :
    (∀ n, (next (.regRead n) full).pending = [.regRead n]) ∧
    (∀ n ∈ ([0x0B, 0x1F, 0x3C, 0xFF] : List (BitVec 8)), (0x0B ≤ n.toNat ∧ n.toNat ≤ 0x1F) ∨ 0x3C ≤ n.toNat) ∧
    (0x20#8).toNat = 0x20 + 4 * planeNumber .src ∧ (0x39#8).toNat = 0x20 + 4 * planeNumber .dec + 1 ∧
    (0x2E#8).toNat = 0x20 + 4 * planeNumber .qnt + 2 ∧ (0x3B#8).toNat = 0x20 + 4 * planeNumber .dec + 3 :=
  ⟨fun _ => rfl, by decide⟩

/-- R66, R42, R32, R51: what a read step tells HOST: 0 for CMD and a reserved number, QLEVELS, VBUF's len. -/
theorem test_register_read :
    (after (step (next (.regRead 0x00#8) full))).map State.replies = some [.word 0] ∧
    (after (step (next (.regRead 0x2E#8) full))).map State.replies = some [.word 4] ∧
    (after (step (next (.regRead 0x37#8) full))).map State.replies = some [.word 2] ∧
    (after (step (next (.regRead 0x3C#8) full))).map State.replies = some [.word 0] := ⟨rfl, rfl, rfl, rfl⟩

/-- The ends of the two reserved ranges, the writable registers at both ends, the last attribute register. -/
theorem witness_ReservedRegistersAndBitsReadZeroAndIgnoreWrites :
    (∀ n ∈ ([0x0B, 0x1F, 0x3C, 0xFF] : List Nat), (0x0B ≤ n ∧ n ≤ 0x1F) ∨ 0x3C ≤ n) ∧ writableWidth 2 = some 16 ∧
    writableWidth 8 = some 16 ∧ (0x00010002#32).toNat % 2 ^ 16 = (0x00000002#32).toNat % 2 ^ 16 ∧
    0x20 + 4 * planeNumber .dec + 3 = 0x3B := by decide

theorem witness_StatusWordHasTheFieldsOfItsTable : (15 : Nat) ≤ 15 ∧ full.mem.valid .dec = true ∧
    State.reset.mem.valid .dec = false := by decide

/-- All planes invalid; all planes valid. -/
theorem witness_AttributeRegistersShowThePlanes :
    (∀ p ∈ ([.src, .nrm, .pix, .qnt, .buf, .vbuf, .dec] : List Plane), State.reset.mem.valid p = false ∧
      full.mem.valid p = true) := by decide

theorem witness_ResetEventLeavesTheStateOfTheResetTable : (next .reset full).pending = [.reset] := rfl

theorem witness_EveryStepKeepsTheInvariant :
    Inv (next (.regWrite 0x00#8 0x52#32) full) ∧ ∃ t, step (next (.regWrite 0x00#8 0x52#32) full) = .next t :=
  ⟨full_inv, _, rfl⟩

/-- An invalid plane; the first index outside; the last inside. -/
theorem witness_PlaneReadIsRefusedOutsideAndAnsweredInside :
    Inv (next (.planeRead .nrm 0) (st (conf 2 1 4 0 0) Memory.empty)) ∧ Memory.empty.valid .nrm = false ∧
    Inv (next (.planeRead .src 6) full) ∧ full.mem.valid .src = true ∧ elementCount full.mem .src = 6 ∧
    Inv (next (.planeRead .qnt 1) full) ∧ full.mem.valid .qnt = true ∧ elementCount full.mem .qnt = 2 ∧
    elementCount full.mem .dec = 2 := by unfold Inv; decide

/-- The last element of every plane, by its coordinates. -/
theorem witness_PlaneReadAnswersTheRowMajorElement :
    (∀ m, Inv (next m full)) ∧
    full.mem.src = some ⟨2, 1, 3, [1, 2, 3, 4, 5, 6]⟩ ∧ 5 = (0 * 2 + 1) * 3 + 2 ∧
    full.mem.nrm = some ⟨1, 2, 1, [7, 8]⟩ ∧ 1 = (1 * 1 + 0) * 1 + 0 ∧ full.mem.pix = some ⟨2, 1, [9, 10]⟩ ∧
    full.mem.qnt = some ⟨2, 1, 4, [3, 1]⟩ ∧ 1 = 0 * 2 + 1 ∧ full.mem.buf = some ⟨2, 1, 2, [0xD0]⟩ ∧
    (∃ l, full.mem.vbuf = some l ∧ 1 < l.length) ∧ full.mem.dec = some ⟨2, 1, [some 255, none]⟩ ∧ DecGrid.cell ⟨2, 1, [some 255, none]⟩ 0 0 = some 255 ∧
    DecGrid.cell ⟨2, 1, [some 255, none]⟩ 1 0 = none := ⟨full_next_inv, by decide⟩

/-- Each clause: a load at the end of its ranges, and one just outside. -/
theorem witness_PlaneLoadAndDropObeyTheirPreconditions :
    (next (.planeLoad .src 65535 0 255 []) full).pending = [.planeLoad .src 65535 0 255 []] ∧
    (65535 ≤ 65535 ∧ 0 ≤ 65535 ∧ 255 ≤ 255 ∧ ([] : List Nat).length = 65535 * 0 * 255 ∧ ∀ v ∈ ([] : List Nat), v ≤ 255) ∧
    ¬(65536 ≤ 65535) ∧ (1 ≤ 1 ∧ 1 ≤ 65535 ∧ (3 = 1 ∨ 3 = 3) ∧ [0, 255, 7].length = 1 * 1 * 3 ∧ ∀ v ∈ [0, 255, 7], v ≤ 255) ∧
    ¬(2 = 1 ∨ 2 = 3) ∧ ([0, 255].length = 2 * 1 ∧ ∀ v ∈ [0, 255], v ≤ 255) ∧ ¬(∀ v ∈ [256], v ≤ 255) ∧
    (([] : List Nat).length ≤ 2 ^ 32 - 1) ∧ Plane.dec ≠ .src ∧ Plane.dec ≠ .vbuf := by decide

theorem witness_LoadsAndDropsAreAvailableExactlyWhenWellFormed :
    (next (.planeDrop .src) full).pending = [.planeDrop .src] ∧
    (next (.planeLoad .pix 1 1 0 [7]) full).pending = [.planeLoad .pix 1 1 0 [7]] := by decide

theorem witness_CommandsChangeOnlyWhatTheTableGivesThem : writesPlane .pack2 .qnt = false ∧
    writesPlane .convert .vbuf = false ∧ Instr.pack2 ≠ .unpack1 ∧ Instr.pack2 ≠ .detect := by decide

theorem witness_RaisingInvalidatesTheDestinationOnly :
    Instr.pack1 ≠ .nop ∧ ∃ t, exec .pack1 full = .next t ∧ t.err ≠ .ok ∧ writesPlane .pack1 .buf = true :=
  ⟨by decide, _, rfl, by decide, by decide⟩

theorem witness_ErrIsOverwrittenByEveryCommandButNop : Instr.convert ≠ .nop := by decide

/-- Each clause: CLEAR; an UNPACK without error, and one that raises; a command that writes none of the four. -/
theorem witness_NoCommandReadsTheResultRegisters :
    (∃ t, exec .unpack1 full = .next t ∧ t.err = .ok) ∧
    (∃ t, exec .unpack1 (st (conf 0 1 4 0 0) fullMem) = .next t ∧ t.err ≠ .ok) ∧ Instr.unpack1 ≠ .clear ∧
    Instr.convert ≠ .clear ∧ Instr.convert ≠ .unpack1 ∧ Instr.convert ≠ .unpack2 ∧ Instr.convert ≠ .detect :=
  ⟨⟨_, rfl, rfl⟩, ⟨_, rfl, by decide⟩, by decide⟩

/-- Every plane invalid, a usable target, both level counts. -/
theorem witness_MissingSourcePlaneRaisesSequenceError :
    (st (conf 1 1 2 0 0) Memory.empty).cfg.levels = 2#8 ∧ (st (conf 1 1 4 0 0) Memory.empty).cfg.levels = 4#8 ∧
    Memory.empty = ⟨none, none, none, none, none, none, none⟩ ∧ (conf 1 1 2 0 0).tw ≠ 0#16 ∧ (conf 1 1 2 0 0).th ≠ 0#16 ∧
    ∃ t, exec .normalize (st (conf 1 1 2 0 0) Memory.empty) = .next t :=
  ⟨rfl, rfl, rfl, by decide, by decide, _, rfl⟩

theorem witness_ZeroTargetSizeRaisesConfigError :
    (st (conf 0 9 2 0 0) fullMem).cfg.tw = 0#16 ∧ (st (conf 9 0 4 0 0) fullMem).cfg.th = 0#16 ∧
    (conf 0 9 2 0 0).levels = 2#8 ∧ (conf 9 0 4 0 0).levels = 4#8 := by decide

theorem usable : UsableSource ⟨2, 1, 3, [1, 2, 3, 4, 5, 6]⟩ := by unfold UsableSource; decide

/-- The source of `full`, its last sample; the resized size is 2×1. -/
theorem witness_NormalizeGivesTheCentreCropOfTheCoverFit :
    full.cfg.tw ≠ 0#16 ∧ full.cfg.th ≠ 0#16 ∧ full.mem.src = some ⟨2, 1, 3, [1, 2, 3, 4, 5, 6]⟩ ∧
    UsableSource ⟨2, 1, 3, [1, 2, 3, 4, 5, 6]⟩ ∧ 1 < full.cfg.tw.toNat ∧ 0 < full.cfg.th.toNat ∧
    (2, 1) = resizedSize 2 1 full.cfg.tw.toNat full.cfg.th.toNat := ⟨by decide, by decide, rfl, usable, by decide⟩

/-- NV12, where both sides round and one is cropped. -/
theorem witness_ScaledImageAlwaysCoversTheTarget :
    (1 ≤ 1001 ∧ 1 ≤ 333 ∧ 1 ≤ 400 ∧ 1 ≤ 300) ∧ 902 = scaledSide 1001 (coverScale 1001 333 400 300) ∧
    300 = scaledSide 333 (coverScale 1001 333 400 300) := by decide +kernel

theorem witness_ConstantChannelStaysConstantThroughNormalize :
    Inv (st (conf 2 2 4 0 0) (onlySrc 1 1 3 [7, 8, 9])) ∧ UsableSource ⟨1, 1, 3, [7, 8, 9]⟩ ∧ 2 < (3#8).toNat ∧
    ∀ x y, x < (1#16).toNat → y < (1#16).toNat → Image.sample ⟨1, 1, 3, [7, 8, 9]⟩ x y 2 = 9 := by
  refine ⟨by unfold Inv; decide, by unfold UsableSource; decide, by decide, fun x y hx hy => ?_⟩
  obtain rfl : x = 0 := by simpa using hx
  obtain rfl : y = 0 := by simpa using hy
  decide

/-- No source; zero width; zero height; channel counts next to the accepted ones. -/
theorem witness_UnusableSourceRaisesImageLoadError :
    (st (conf 1 1 2 0 0) Memory.empty).mem.src = none ∧ (0#16 = 0#16) ∧
    (st (conf 1 1 2 0 0) (onlySrc 0 9 1 [])).mem.src = some ⟨0, 9, 1, []⟩ ∧
    (st (conf 1 1 4 0 0) (onlySrc 9 0 3 [])).mem.src = some ⟨9, 0, 3, []⟩ ∧
    ∀ c ∈ ([0, 2, 4, 255] : List (BitVec 8)), c ≠ 1#8 ∧ c ≠ 3#8 := by decide

theorem witness_ToGrayCopiesAOneChannelImage :
    Inv full ∧ full.mem.nrm = some ⟨1, 2, 1, [7, 8]⟩ ∧ (1 : BitVec 8) = 1#8 := ⟨full_inv, rfl, rfl⟩

/-- The last pixel, a gray one. -/
theorem witness_ToGrayReducesEachColourPixelByLuma :
    (st full.cfg (onlyNrm 2 1 3 [1, 2, 3, 9, 9, 9])).mem.nrm = some ⟨2, 1, 3, [1, 2, 3, 9, 9, 9]⟩ ∧
    Image.sample ⟨2, 1, 3, [1, 2, 3, 9, 9, 9]⟩ 1 0 0 = 9 ∧ Image.sample ⟨2, 1, 3, [1, 2, 3, 9, 9, 9]⟩ 1 0 1 = 9 ∧
    Image.sample ⟨2, 1, 3, [1, 2, 3, 9, 9, 9]⟩ 1 0 2 = 9 := by decide

/-- The last cell of `full`, value 10, at factors 1.0. -/
theorem witness_AdjustAppliesContrastThenBrightnessExactly :
    full.mem.pix = some ⟨2, 1, [9, 10]⟩ ∧ Grid.cell ⟨2, 1, [9, 10]⟩ 1 0 = 10 ∧
    (10 : Int) = max 0 (min 255 (128 + (((10 : Nat) : Rat) - 128) * factorValue 0x0100).floor) ∧
    (10 : Int) = max 0 (min 255 (((10 : Int) : Rat) * factorValue 0x0100).floor) := by decide +kernel

theorem witness_AdjustCornerFactors : Inv full ∧ full.mem.pix = some ⟨2, 1, [9, 10]⟩ ∧ full.cfg.contrast = 0x0100#16 ∧
    full.cfg.bright = 0x0100#16 ∧
    (∃ s : State, Inv s ∧ s.mem.pix = some ⟨2, 1, [9, 10]⟩ ∧ s.cfg.contrast = 0#16 ∧ s.cfg.bright = 0x0100#16) ∧
    (∃ s : State, Inv s ∧ s.mem.pix = some ⟨2, 1, [9, 10]⟩ ∧ s.cfg.bright = 0#16) :=
  ⟨full_inv, rfl, rfl, rfl, ⟨{ full with cfg := { full.cfg with contrast := 0 } }, full_inv, rfl, rfl, rfl⟩,
    { full with cfg := { full.cfg with bright := 0 } }, full_inv, rfl, rfl⟩

theorem witness_QuantThreshComparesWithTheThreshold :
    (st (conf 2 1 2 0 128) fullMem).cfg.levels = 2#8 ∧ (st (conf 2 1 2 0 128) fullMem).mem.pix = some ⟨2, 1, [9, 10]⟩ ∧
    full.cfg.levels ≠ 2#8 ∧ (st (conf 2 1 2 0 128) Memory.empty).mem.pix = none := by decide

theorem witness_QuantUniformSplitsIntoFourBuckets :
    full.cfg.levels = 4#8 ∧ full.mem.pix = some ⟨2, 1, [9, 10]⟩ ∧ (conf 2 1 2 0 128).levels ≠ 4#8 ∧
    (st (conf 2 1 4 0 128) Memory.empty).mem.pix = none := by decide

theorem witness_QuantDitherIsExactErrorDiffusion :
    full.cfg.levels = BitVec.ofNat 8 4 ∧ full.mem.pix = some ⟨2, 1, [9, 10]⟩ ∧
    (conf 2 1 2 0 128).levels = BitVec.ofNat 8 2 := by decide

/-- A tie, 255/2, for both level counts. -/
theorem witness_NearestLevelIsNearestWithTiesUp : (1 : Int) = nearestLevel 2 (255 / 2) ∧ (2 : Int) = nearestLevel 4 (255 / 2) := by
  decide +kernel

/-- Every clause: an interior pixel, the two border columns, one column, the last row, the last pixel. -/
theorem witness_DeliveredErrorSharesSumAsTheBorderSays :
    (List.replicate 6 (0 : Rat)).length = 3 * 2 ∧ (1 ≤ 1 ∧ 1 + 1 < 3 ∧ 0 + 1 < 2) ∧ (1 ≤ 2 ∧ 2 + 1 = 3 ∧ 0 + 1 < 2) ∧
    (0 + 1 < 3 ∧ 0 + 1 < 2) ∧ ((List.replicate 2 (0 : Rat)).length = 1 * 2 ∧ 0 + 1 = 1 ∧ 0 + 1 < 2) ∧
    (1 + 1 < 3 ∧ 1 + 1 = 2) ∧ (2 + 1 = 3 ∧ 1 + 1 = 2) := by decide

theorem witness_QuantRefusesUnsupportedLevelCounts :
    (conf 1 1 4 0 0).levels ≠ 2#8 ∧ (conf 1 1 2 0 0).levels ≠ 4#8 ∧ (conf 1 1 3 0 0).levels ≠ 2#8 ∧
    (conf 1 1 3 0 0).levels ≠ 4#8 := by decide

/-- K4's grid: the last pixel, and the first position of its padding. -/
theorem witness_Pack1WritesOneBlackBitPerPixel :
    (st (conf 1 1 4 0 0) (onlyQnt 5 1 2 [0, 0, 0, 0, 0])).mem.qnt = some ⟨5, 1, 2, [0, 0, 0, 0, 0]⟩ ∧ (2 : BitVec 8) = 2#8 ∧
    4 < (5#16).toNat ∧ 0 < ((5#16).toNat + 7) / 8 ∧ (5#16).toNat ≤ 8 * 0 + 5 := by decide

/-- K9's grid: the last pixel, and the first position of its padding. -/
theorem witness_Pack2WritesTheLevelInTwoBits :
    (st (conf 1 1 4 0 0) (onlyQnt 5 1 4 [3, 2, 1, 0, 3])).mem.qnt = some ⟨5, 1, 4, [3, 2, 1, 0, 3]⟩ ∧ (4 : BitVec 8) = 4#8 ∧
    4 < (5#16).toNat ∧ 1 < ((5#16).toNat + 3) / 4 ∧ (5#16).toNat ≤ 4 * 1 + 1 := by decide

theorem witness_PackRefusesAGridOfTheOtherFormat :
    full.mem.qnt = some ⟨2, 1, 4, [3, 1]⟩ ∧ (4 : BitVec 8) ≠ 2#8 ∧
    (st full.cfg (onlyQnt 1 1 2 [1])).mem.qnt = some ⟨1, 1, 2, [1]⟩ ∧ (2 : BitVec 8) ≠ 4#8 := by decide

/-- U7: a pixel whose byte is there and one whose byte is missing. -/
theorem witness_Unpack1DecodesEachBit :
    (conf 5 2 3 0 0).tw ≠ 0#16 ∧ (conf 5 2 3 0 0).th ≠ 0#16 ∧
    (st (conf 5 2 3 0 0) (onlyVbuf [0x68])).mem.vbuf = some [0x68] ∧
    ([0x68] : List Byte)[0 * ((5 + 7) / 8) + 4 / 8]? = some 0x68 ∧ ([0x68] : List Byte).length ≤ 1 * ((5 + 7) / 8) + 0 / 8 := by
  decide

/-- U8: a pixel whose byte is there and one whose byte is missing. -/
theorem witness_Unpack2DecodesEachLevel :
    (conf 8 2 3 0 0).tw ≠ 0#16 ∧ (conf 8 2 3 0 0).th ≠ 0#16 ∧
    (st (conf 8 2 3 0 0) (onlyVbuf [0xAA, 0xAA, 0xAA])).mem.vbuf = some [0xAA, 0xAA, 0xAA] ∧
    ([0xAA, 0xAA, 0xAA] : List Byte)[1 * ((8 + 3) / 4) + 3 / 4]? = some 0xAA ∧
    ([0xAA, 0xAA, 0xAA] : List Byte).length ≤ 1 * ((8 + 3) / 4) + 4 / 4 := by decide

/-- Both formats. -/
theorem witness_PackThenUnpackRestoresEveryLevel :
    Inv full ∧ full.mem.qnt = some ⟨2, 1, 4, [3, 1]⟩ ∧ (4 : BitVec 8) = BitVec.ofNat 8 4 ∧
    (st (conf 2 1 3 0 0) (onlyVbuf [0xD0])).mem.vbuf = some (QGrid.packed 2 levelField ⟨2, 1, 4, [3, 1]⟩).bytes ∧
    (conf 2 1 3 0 0).tw = 2#16 ∧ (conf 2 1 3 0 0).th = 1#16 ∧
    Inv (st full.cfg (onlyQnt 1 1 2 [0])) ∧
    (st (conf 1 1 3 0 0) (onlyVbuf [0x80])).mem.vbuf = some (QGrid.packed 1 blackBit ⟨1, 1, 2, [0]⟩).bytes ∧
    (conf 1 1 3 0 0).tw = 1#16 ∧ (conf 1 1 3 0 0).th = 1#16 := by unfold Inv; decide

/-- Both modes, on the cells 9 and 10. -/
theorem witness_QuantizePackUnpackGivesTheSourcesRoundTrips :
    Inv full ∧ full.mem.pix = some ⟨2, 1, [9, 10]⟩ ∧ full.cfg.levels = 4#8 ∧ (conf 2 1 3 0 0).tw = 2#16 ∧
    (conf 2 1 3 0 0).th = 1#16 ∧ Inv (st (conf 2 1 2 0 9) fullMem) ∧ (conf 2 1 2 0 9).levels = 2#8 := by unfold Inv; decide

/-- X4, X5, X6, X10, X11. -/
theorem witness_DetectChoosesTheFormatFromTheLength :
    (conf 5 2 3 0 0).tw ≠ 0#16 ∧ (conf 5 2 3 0 0).th ≠ 0#16 ∧
    (st (conf 5 2 3 0 0) (onlyVbuf [0, 0])).mem.vbuf = some [0, 0] ∧ ([0, 0] : List Byte).length = (5 + 7) / 8 * 2 ∧
    ([0, 0, 0, 0] : List Byte).length ≠ (5 + 7) / 8 * 2 ∧ ([0, 0, 0, 0] : List Byte).length = (5 + 3) / 4 * 2 ∧
    ([0] : List Byte).length ≠ (5 + 7) / 8 * 2 ∧ ([0] : List Byte).length ≠ (5 + 3) / 4 * 2 ∧
    (conf 0 300 3 0 0).tw = 0#16 ∧ (st (conf 5 2 3 0 0) Memory.empty).mem.vbuf = none := by decide

/-- X7, width 4; and width 5, the first that is not ambiguous. -/
theorem witness_DetectIsAmbiguousExactlyForNarrowTargets :
    (conf 4 3 3 0 0).tw ≠ 0#16 ∧ (conf 4 3 3 0 0).th ≠ 0#16 ∧ (conf 4 3 3 0 0).tw.toNat ≤ 4 ∧
    ([0, 0, 0] : List Byte).length = (conf 4 3 3 0 0).th.toNat ∧
    (st (conf 4 3 3 0 0) (onlyVbuf [0, 0, 0])).mem.vbuf = some [0, 0, 0] ∧ 5 ≤ (conf 5 2 3 0 0).tw.toNat ∧
    ([0, 0, 0, 0] : List Byte).length = (5 + 3) / 4 * 2 ∧
    (st (conf 5 2 3 0 0) (onlyVbuf [0, 0, 0, 0])).mem.vbuf = some [0, 0, 0, 0] := by decide

theorem witness_CopyBufMovesTheBytesOfBufToVbuf :
    Inv (full.withPending [.planeRead .buf 0, .planeLoad .vbuf 0 0 0 [0xD0]]) ∧ full.mem.buf = some ⟨2, 1, 2, [0xD0]⟩ ∧
    copyBufMoves full = some [.planeRead .buf 0, .planeLoad .vbuf 0 0 0 [0xD0]] := ⟨full_inv, rfl, rfl⟩

theorem witness_ConvertCompletesWithAPackedBuffer :
    full.cfg.levels = BitVec.ofNat 8 4 ∧ full.cfg.tw ≠ 0#16 ∧ full.cfg.th ≠ 0#16 ∧
    full.mem.src = some ⟨2, 1, 3, [1, 2, 3, 4, 5, 6]⟩ ∧ UsableSource ⟨2, 1, 3, [1, 2, 3, 4, 5, 6]⟩ ∧
    (conf 2 1 2 1 0).levels = BitVec.ofNat 8 2 := ⟨rfl, by decide, by decide, rfl, usable, rfl⟩

theorem witness_ConvertChecksTheLevelCountFirst :
    (conf 1 1 3 0 0).levels ≠ 2#8 ∧ (conf 1 1 3 0 0).levels ≠ 4#8 := by decide

/-- A clean staged run of the 4-level mode, on a one-channel source. -/
theorem witness_ConvertEqualsTheStagedCommands :
    stagedCommands (st (conf 2 1 4 0 0) (onlySrc 2 1 1 [5, 6])) = some [.normalize, .toGray, .quantUniform, .pack2] ∧
    ∃ t, RunsClean [.normalize, .toGray, .quantUniform, .pack2] (st (conf 2 1 4 0 0) (onlySrc 2 1 1 [5, 6])) t :=
  ⟨by decide, _, _, rfl, rfl, _, rfl, rfl, _, rfl, rfl, _, rfl, rfl, rfl⟩

theorem witness_ConvertDependsOnSourceAndConfigurationOnly :
    full.mem.src = (st full.cfg (onlySrc 2 1 3 [1, 2, 3, 4, 5, 6])).mem.src ∧
    full.cfg = (st full.cfg (onlySrc 2 1 3 [1, 2, 3, 4, 5, 6])).cfg ∧ full.mem.buf ≠ (onlySrc 2 1 3 [1, 2, 3, 4, 5, 6]).buf := by
  decide

/-- The three modes, each with another value in a register the mode does not read. -/
theorem witness_ConvertIgnoresTheRegistersItsModeDoesNotRead :
    (conf 2 1 4 0 1).levels = 4#8 ∧ (conf 2 1 4 1 9).levels = 4#8 ∧ (conf 2 1 4 0 1) ≠ conf 2 1 4 1 9 ∧
    (conf 2 1 2 0 9).thresh = ({ conf 2 1 2 0 9 with bright := 7 } : ConfigRegs).thresh ∧
    ({ conf 2 1 2 0 9 with bright := 7 } : ConfigRegs).dither = 0#1 ∧
    (conf 2 1 2 1 9).bright = (conf 2 1 2 1 8).bright ∧ (conf 2 1 2 1 9).contrast = (conf 2 1 2 1 8).contrast ∧
    (conf 2 1 2 1 8).dither = 1#1 := by decide

/-- P1's source at one row. -/
theorem witness_ConstantSourceConvertsToARepeatedByte :
    Inv (st (conf 8 2 4 0 0) (onlySrc 4 1 1 [128, 128, 128, 128])) ∧ (conf 8 2 4 0 0).tw.toNat % 4 = 0 ∧
    UsableSource ⟨4, 1, 1, [128, 128, 128, 128]⟩ ∧ ∀ a ∈ ([128, 128, 128, 128] : List Byte), a = 128 := by
  refine ⟨by unfold Inv; decide, by decide, by unfold UsableSource; decide, by decide⟩

end Sys2Proof.Tests
end

section
/-! SUPPORT. Every command but NOP as one body and one way to end it, and what all the bodies share: they raise an error
other than ERR 0 or complete; they read the planes and the configuration alone; they write the planes and the result
registers of their command alone. -/

namespace Sys2Proof.Machine

open Sys2Proof.Claims

/-! ### A command is a body that `finish` ends -/

/-- What command i invalidates when it raises (R262). -/
def commandDest : Instr → ErrDest
  | .normalize => .nrm
  | .toGray | .adjust => .pix
  | .quantThresh | .quantUniform | .quantDither => .qnt
  | .pack1 | .pack2 => .buf
  | .unpack1 | .unpack2 => .dec
  | .detect => .vbpp
  | .convert => .conversion
  | .nop | .clear => .nothing

/-- What command i makes of the state it was issued in, before `finish` writes ERR. -/
def commandBody : Instr → State → Except Err State
  | .nop => .ok
  | .clear => fun s => .ok (((s.withMem s.mem.cleared).withLength false false 0).withVbpp 0)
  | .normalize => normalizeBody
  | .toGray => toGrayBody
  | .adjust => adjustBody
  | .quantThresh => quantThreshBody
  | .quantUniform => quantUniformBody
  | .quantDither => quantDitherBody
  | .pack1 => pack1Body
  | .pack2 => pack2Body
  | .unpack1 => unpack1Body
  | .unpack2 => unpack2Body
  | .detect => detectBody
  | .convert => convertBody

theorem exec_nop (s : State) : exec .nop s = .next s := rfl

theorem exec_eq_finish {i : Instr} (hi : i ≠ .nop) (s : State) :
    exec i s = finish (commandDest i) (commandBody i s) s := by
  cases i
  case nop => exact absurd rfl hi
  all_goals rfl

/-! ### No body raises ERR 0 -/

/-- No error of the body b is ERR 0. -/
def RaisesErrors (b : State → Except Err State) : Prop := ∀ s e, b s = .error e → e ≠ .ok

theorem RaisesErrors.ite {c : State → Prop} [DecidablePred c] {a b : State → Except Err State} (ha : RaisesErrors a)
    (hb : RaisesErrors b) : RaisesErrors (fun s => if c s then a s else b s) := by
  intro s e h
  dsimp only at h
  split_ifs at h
  · exact ha s e h
  · exact hb s e h

theorem RaisesErrors.bind {a b : State → Except Err State} (ha : RaisesErrors a) (hb : RaisesErrors b) :
    RaisesErrors (fun s => a s >>= b) := by
  intro s e h
  rcases bind_error h with h | ⟨u, -, h⟩
  · exact ha s e h
  · exact hb u e h

theorem normalizeBody_raisesErrors : RaisesErrors normalizeBody := fun _ _ h => by
  obtain ⟨rfl, -⟩ | ⟨rfl, -⟩ := normalizeBody_error h <;> decide

theorem toGrayBody_raisesErrors : RaisesErrors toGrayBody := fun _ _ h => by
  obtain ⟨rfl, -⟩ := toGrayBody_error h; decide

theorem adjustBody_raisesErrors : RaisesErrors adjustBody := fun _ _ h => by
  obtain ⟨rfl, -⟩ := adjustBody_error h; decide

theorem quantBody_raisesErrors (domain : Nat → Bool) (levels : State → Grid → List Level) :
    RaisesErrors (fun s => quantBody domain (levels s) s) := fun _ _ h => by
  obtain ⟨rfl, -⟩ | ⟨rfl, -⟩ := quantBody_error h <;> decide

theorem quantThreshBody_raisesErrors : RaisesErrors quantThreshBody :=
  quantBody_raisesErrors (· == 2) fun s => Grid.thresholded s.cfg.thresh

theorem quantUniformBody_raisesErrors : RaisesErrors quantUniformBody :=
  quantBody_raisesErrors (· == 4) fun _ => Grid.uniform 4

theorem quantDitherBody_raisesErrors : RaisesErrors quantDitherBody :=
  quantBody_raisesErrors (fun n => n == 2 || n == 4) fun s => Grid.dithered s.levelCount

theorem packBody_raisesErrors (bpp : Nat) (field : Level → Byte) :
    RaisesErrors (packBody bpp field) := fun _ _ h => by
  obtain ⟨rfl, -⟩ | ⟨rfl, -⟩ := packBody_error h <;> decide

theorem unpackBody_raisesErrors (bpp : Nat) (f : Byte → Byte) (p : Config.ShortPolicy) :
    RaisesErrors (unpackBody bpp f p) := fun _ _ h => by
  obtain ⟨rfl, -⟩ | ⟨rfl, -⟩ := unpackBody_error h <;> decide

theorem detectBody_raisesErrors : RaisesErrors detectBody := fun _ _ h => by
  obtain ⟨rfl, -⟩ | ⟨rfl, -⟩ | ⟨rfl, -⟩ := detectBody_error h <;> decide

theorem convertTail_raisesErrors : RaisesErrors convertTail :=
  .ite
    (.ite (adjustBody_raisesErrors.bind (quantDitherBody_raisesErrors.bind (packBody_raisesErrors 1 blackBit)))
      (quantThreshBody_raisesErrors.bind (packBody_raisesErrors 1 blackBit)))
    (quantUniformBody_raisesErrors.bind (packBody_raisesErrors 2 levelField))

theorem convertBody_raisesErrors : RaisesErrors convertBody := by
  have stages : RaisesErrors convertStages :=
    .ite (fun _ _ h => by cases h; decide)
      (normalizeBody_raisesErrors.bind (toGrayBody_raisesErrors.bind convertTail_raisesErrors))
  exact stages.bind fun _ _ h => by cases h

theorem commandBody_raisesErrors (i : Instr) : RaisesErrors (commandBody i) := by
  cases i
  case nop => intro s e h; cases h
  case clear => intro s e h; cases h
  case normalize => exact normalizeBody_raisesErrors
  case toGray => exact toGrayBody_raisesErrors
  case adjust => exact adjustBody_raisesErrors
  case quantThresh => exact quantThreshBody_raisesErrors
  case quantUniform => exact quantUniformBody_raisesErrors
  case quantDither => exact quantDitherBody_raisesErrors
  case pack1 => exact packBody_raisesErrors 1 blackBit
  case pack2 => exact packBody_raisesErrors 2 levelField
  case unpack1 => exact unpackBody_raisesErrors 1 intensity1 Config.shortPolicy
  case unpack2 => exact unpackBody_raisesErrors 2 intensity2 Config.shortPolicy
  case detect => exact detectBody_raisesErrors
  case convert => exact convertBody_raisesErrors

/-! ### What a body reads and writes -/

/-- The planes and the configuration of s, in a state that is r in everything else. -/
def State.withInputsOf (r s : State) : State := (r.withCfg s.cfg).withMem s.mem

@[simp] theorem State.withInputsOf_mem (r s : State) : (r.withInputsOf s).mem = s.mem := rfl

/-- The planes of t in the state s, with len also SHORT, LONG and DCOUNT of t, with vbpp also VBPP of t. -/
def State.withResultsOf (len vbpp : Bool) (s t : State) : State :=
  { s with
    mem := t.mem
    short := if len then t.short else s.short
    long := if len then t.long else s.long
    dcount := if len then t.dcount else s.dcount
    vbpp := if vbpp then t.vbpp else s.vbpp }

theorem State.withResultsOf_withResultsOf (len vbpp : Bool) (s t u : State) :
    (s.withResultsOf len vbpp t).withResultsOf len vbpp u = s.withResultsOf len vbpp u := by
  cases len <;> cases vbpp <;> rfl

/-- The body b reads the planes and the configuration alone: whatever else the state holds, it raises the same error or
gives the same results, and it writes nothing but the planes, with len SHORT, LONG and DCOUNT, with vbpp VBPP. -/
def Confined (len vbpp : Bool) (b : State → Except Err State) : Prop :=
  ∀ r s : State, b (r.withInputsOf s) = (b s).map fun t => (r.withInputsOf s).withResultsOf len vbpp t

theorem Confined.result_eq {len vbpp : Bool} {b : State → Except Err State} (hb : Confined len vbpp b) {s t : State}
    (h : b s = .ok t) : t = s.withResultsOf len vbpp t := by
  have self : b s = (b s).map fun t => s.withResultsOf len vbpp t := hb s s
  rw [h] at self
  exact Except.ok.inj self

theorem Confined.error (len vbpp : Bool) (e : Err) : Confined len vbpp fun _ => .error e := fun _ _ => rfl

theorem Confined.ite {len vbpp : Bool} {c : State → Prop} [DecidablePred c] {a b : State → Except Err State}
    (hc : ∀ r s : State, c (r.withInputsOf s) ↔ c s) (ha : Confined len vbpp a) (hb : Confined len vbpp b) :
    Confined len vbpp fun s => if c s then a s else b s := by
  intro r s
  by_cases h : c s
  · simpa only [hc, h, if_true] using ha r s
  · simpa only [hc, h, if_false] using hb r s

theorem Confined.bind {len vbpp : Bool} {a b : State → Except Err State} (ha : Confined len vbpp a)
    (hb : Confined len vbpp b) : Confined len vbpp fun s => a s >>= b := by
  intro r s
  dsimp only
  rw [ha r s]
  cases h : a s with
  | error e => rfl
  | ok t =>
    have same : ((r.withInputsOf s).withResultsOf len vbpp t).withInputsOf t =
        (r.withInputsOf s).withResultsOf len vbpp t := by
      rw [ha.result_eq h]; rfl
    have next := hb ((r.withInputsOf s).withResultsOf len vbpp t) t
    simp only [same, State.withResultsOf_withResultsOf] at next
    exact next

theorem normalizeBody_confined : Confined false false normalizeBody := by
  refine .ite (fun _ _ => .rfl) (.error _ _ _) fun r s => ?_
  dsimp only [State.withInputsOf_mem]
  cases s.mem.src with
  | none => rfl
  | some g => dsimp only; split_ifs <;> rfl

theorem toGrayBody_confined : Confined false false toGrayBody := by
  intro r s
  simp only [toGrayBody, State.withInputsOf_mem]
  cases s.mem.nrm <;> rfl

theorem adjustBody_confined : Confined false false adjustBody := by
  intro r s
  simp only [adjustBody, State.withInputsOf_mem]
  cases s.mem.pix <;> rfl

theorem quantBody_confined (domain : Nat → Bool) (levels : ConfigRegs → Grid → List Level) :
    Confined false false fun s => quantBody domain (levels s.cfg) s := by
  refine .ite (fun _ _ => .rfl) (.error _ _ _) (.ite (fun _ _ => .rfl) (.error _ _ _) fun r s => ?_)
  dsimp only [State.withInputsOf_mem]
  cases s.mem.pix <;> rfl

theorem quantThreshBody_confined : Confined false false quantThreshBody :=
  quantBody_confined (· == 2) fun c => Grid.thresholded c.thresh

theorem quantUniformBody_confined : Confined false false quantUniformBody :=
  quantBody_confined (· == 4) fun _ => Grid.uniform 4

theorem quantDitherBody_confined : Confined false false quantDitherBody :=
  quantBody_confined (fun n => n == 2 || n == 4) fun c => Grid.dithered c.levels.toNat

theorem packBody_confined (bpp : Nat) (field : Level → Byte) : Confined false false (packBody bpp field) := by
  intro r s
  simp only [packBody, State.withInputsOf_mem]
  cases s.mem.qnt with
  | none => rfl
  | some g => dsimp only; split_ifs <;> rfl

theorem unpackBody_confined (bpp : Nat) (f : Byte → Byte) (p : Config.ShortPolicy) :
    Confined true false (unpackBody bpp f p) := by
  refine .ite (fun _ _ => .rfl) (.error _ _ _) fun r s => ?_
  dsimp only [State.withInputsOf_mem]
  cases s.mem.vbuf <;> rfl

theorem detectBody_confined : Confined false true detectBody := by
  refine .ite (fun _ _ => .rfl) (.error _ _ _) fun r s => ?_
  dsimp only [State.withInputsOf_mem]
  cases s.mem.vbuf with
  | none => rfl
  | some bytes =>
    have found (v : BitVec 2) : Confined false true fun s => .ok (s.withVbpp v) := fun _ _ => rfl
    exact Confined.ite (c := fun s => bytes.length = expectedBytes 1 s.targetW s.targetH) (fun _ _ => .rfl) (found 1)
      (.ite (c := fun s => bytes.length = expectedBytes 2 s.targetW s.targetH) (fun _ _ => .rfl) (found 2)
        (.error _ _ _)) r s

theorem convertTail_confined : Confined false false convertTail :=
  .ite (fun _ _ => .rfl)
    (.ite (fun _ _ => .rfl)
      (adjustBody_confined.bind (quantDitherBody_confined.bind (packBody_confined 1 blackBit)))
      (quantThreshBody_confined.bind (packBody_confined 1 blackBit)))
    (quantUniformBody_confined.bind (packBody_confined 2 levelField))

theorem convertStages_confined : Confined false false convertStages :=
  .ite (fun _ _ => .rfl) (.error _ _ _)
    (normalizeBody_confined.bind (toGrayBody_confined.bind convertTail_confined))

theorem convertBody_confined : Confined false false convertBody :=
  convertStages_confined.bind fun _ _ => rfl

/-- The commands that write SHORT, LONG and DCOUNT (R40, R50, R231). -/
def writesLength (i : Instr) : Bool := i = .clear || i = .unpack1 || i = .unpack2

/-- The commands that write VBPP (R49, R231). -/
def writesVbpp (i : Instr) : Bool := i = .clear || i = .detect

theorem commandBody_confined (i : Instr) : Confined (writesLength i) (writesVbpp i) (commandBody i) := by
  cases i
  case nop => intro r s; rfl
  case clear => intro r s; rfl
  case normalize => exact normalizeBody_confined
  case toGray => exact toGrayBody_confined
  case adjust => exact adjustBody_confined
  case quantThresh => exact quantThreshBody_confined
  case quantUniform => exact quantUniformBody_confined
  case quantDither => exact quantDitherBody_confined
  case pack1 => exact packBody_confined 1 blackBit
  case pack2 => exact packBody_confined 2 levelField
  case unpack1 => exact unpackBody_confined 1 intensity1 Config.shortPolicy
  case unpack2 => exact unpackBody_confined 2 intensity2 Config.shortPolicy
  case detect => exact detectBody_confined
  case convert => exact convertBody_confined

end Sys2Proof.Machine
end

section
/-! SUPPORT. Which planes a command keeps, as their registers and reads show them (spec/10_state.md R21, R30). -/

namespace Sys2Proof.Machine

open Sys2Proof.Claims

/-! ### Replacing one plane keeps every other plane -/

theorem samePlane_refl (m : Memory) (p : Plane) : SamePlane m m p := ⟨rfl, rfl, fun _ => rfl⟩

theorem samePlane_trans {m m' m'' : Memory} {p : Plane} (h : SamePlane m m' p) (h' : SamePlane m' m'' p) :
    SamePlane m m'' p := by
  obtain ⟨valid, regs, elements⟩ := h
  obtain ⟨valid', regs', elements'⟩ := h'
  exact ⟨valid'.trans valid, regs'.trans regs, fun i => (elements' i).trans (elements i)⟩

section
variable {m : Memory} {p : Plane}

theorem samePlane_withNrm {o : Option Image} (hp : p ≠ .nrm) : SamePlane m { m with nrm := o } p := by
  cases p
  case nrm => exact absurd rfl hp
  all_goals exact ⟨rfl, rfl, fun _ => rfl⟩

theorem samePlane_withPix {o : Option Grid} (hp : p ≠ .pix) : SamePlane m { m with pix := o } p := by
  cases p
  case pix => exact absurd rfl hp
  all_goals exact ⟨rfl, rfl, fun _ => rfl⟩

theorem samePlane_withQnt {o : Option QGrid} (hp : p ≠ .qnt) : SamePlane m { m with qnt := o } p := by
  cases p
  case qnt => exact absurd rfl hp
  all_goals exact ⟨rfl, rfl, fun _ => rfl⟩

theorem samePlane_withBuf {o : Option PackedBuf} (hp : p ≠ .buf) : SamePlane m { m with buf := o } p := by
  cases p
  case buf => exact absurd rfl hp
  all_goals exact ⟨rfl, rfl, fun _ => rfl⟩

theorem samePlane_withDec {o : Option DecGrid} (hp : p ≠ .dec) : SamePlane m { m with dec := o } p := by
  cases p
  case dec => exact absurd rfl hp
  all_goals exact ⟨rfl, rfl, fun _ => rfl⟩

theorem samePlane_withoutIntermediates (hn : p ≠ .nrm) (hp : p ≠ .pix) (hq : p ≠ .qnt) :
    SamePlane m m.withoutIntermediates p := by
  cases p
  case nrm => exact absurd rfl hn
  case pix => exact absurd rfl hp
  case qnt => exact absurd rfl hq
  all_goals exact ⟨rfl, rfl, fun _ => rfl⟩

theorem samePlane_cleared (hw : writesPlane .clear p = false) : SamePlane m m.cleared p := by
  simp only [writesPlane, Bool.or_eq_false_iff, decide_eq_false_iff_not] at hw
  obtain ⟨⟨⟨⟨hn, hp⟩, hq⟩, hb⟩, hd⟩ := hw
  exact samePlane_trans (samePlane_withoutIntermediates hn hp hq)
    (samePlane_trans (samePlane_withBuf hb) (samePlane_withDec hd))

end

/-! ### The planes a body keeps -/

/-- When the body b completes, plane p is what it was. -/
def KeepsPlane (p : Plane) (b : State → Except Err State) : Prop := ∀ s t, b s = .ok t → SamePlane s.mem t.mem p

section
variable {p : Plane}

theorem KeepsPlane.ite {c : State → Prop} [DecidablePred c] {a b : State → Except Err State} (ha : KeepsPlane p a)
    (hb : KeepsPlane p b) : KeepsPlane p fun s => if c s then a s else b s := by
  intro s t h
  dsimp only at h
  split_ifs at h
  · exact ha s t h
  · exact hb s t h

theorem KeepsPlane.bind {a b : State → Except Err State} (ha : KeepsPlane p a) (hb : KeepsPlane p b) :
    KeepsPlane p fun s => a s >>= b := by
  intro s t h
  obtain ⟨u, hu, h⟩ := bind_ok h
  exact samePlane_trans (ha s u hu) (hb u t h)

theorem normalizeBody_keepsPlane (hp : p ≠ .nrm) : KeepsPlane p normalizeBody := by
  intro s t h
  obtain ⟨-, -, g, -, -, -, -, rfl⟩ := normalizeBody_ok h
  exact samePlane_withNrm hp

theorem toGrayBody_keepsPlane (hp : p ≠ .pix) : KeepsPlane p toGrayBody := by
  intro s t h
  obtain ⟨g, -, rfl⟩ := toGrayBody_ok h
  exact samePlane_withPix hp

theorem adjustBody_keepsPlane (hp : p ≠ .pix) : KeepsPlane p adjustBody := by
  intro s t h
  obtain ⟨g, -, rfl⟩ := adjustBody_ok h
  exact samePlane_withPix hp

theorem quantBody_keepsPlane (hp : p ≠ .qnt) (domain : Nat → Bool) (levels : State → Grid → List Level) :
    KeepsPlane p fun s => quantBody domain (levels s) s := by
  intro s t h
  obtain ⟨-, -, g, -, rfl⟩ := quantBody_ok h
  exact samePlane_withQnt hp

theorem quantThreshBody_keepsPlane (hp : p ≠ .qnt) : KeepsPlane p quantThreshBody :=
  quantBody_keepsPlane hp (· == 2) fun s => Grid.thresholded s.cfg.thresh

theorem quantUniformBody_keepsPlane (hp : p ≠ .qnt) : KeepsPlane p quantUniformBody :=
  quantBody_keepsPlane hp (· == 4) fun _ => Grid.uniform 4

theorem quantDitherBody_keepsPlane (hp : p ≠ .qnt) : KeepsPlane p quantDitherBody :=
  quantBody_keepsPlane hp (fun n => n == 2 || n == 4) fun s => Grid.dithered s.levelCount

theorem packBody_keepsPlane (hp : p ≠ .buf) (bpp : Nat) (field : Level → Byte) :
    KeepsPlane p (packBody bpp field) := by
  intro s t h
  obtain ⟨g, -, -, rfl⟩ := packBody_ok h
  exact samePlane_withBuf hp

theorem unpackBody_keepsPlane (hp : p ≠ .dec) (bpp : Nat) (f : Byte → Byte) (policy : Config.ShortPolicy) :
    KeepsPlane p (unpackBody bpp f policy) := by
  intro s t h
  obtain ⟨-, -, bytes, -, rfl⟩ := unpackBody_ok h
  exact samePlane_withDec hp

theorem detectBody_keepsPlane : KeepsPlane p detectBody := by
  intro s t h
  rw [detectBody_keeps_mem h]
  exact samePlane_refl _ _

theorem convertTail_keepsPlane (hp : p ≠ .pix) (hq : p ≠ .qnt) (hb : p ≠ .buf) : KeepsPlane p convertTail :=
  .ite
    (.ite ((adjustBody_keepsPlane hp).bind ((quantDitherBody_keepsPlane hq).bind (packBody_keepsPlane hb 1 blackBit)))
      ((quantThreshBody_keepsPlane hq).bind (packBody_keepsPlane hb 1 blackBit)))
    ((quantUniformBody_keepsPlane hq).bind (packBody_keepsPlane hb 2 levelField))

theorem convertBody_keepsPlane (hn : p ≠ .nrm) (hp : p ≠ .pix) (hq : p ≠ .qnt) (hb : p ≠ .buf) :
    KeepsPlane p convertBody := by
  have stages : KeepsPlane p convertStages :=
    .ite (fun _ _ h => by cases h)
      ((normalizeBody_keepsPlane hn).bind ((toGrayBody_keepsPlane hp).bind (convertTail_keepsPlane hp hq hb)))
  refine stages.bind fun s t h => ?_
  cases h
  exact samePlane_withoutIntermediates hn hp hq

end

/-! ### The planes a command keeps -/

theorem commandBody_keepsPlane {i : Instr} {p : Plane} (hp : writesPlane i p = false) :
    KeepsPlane p (commandBody i) := by
  cases i <;> simp only [writesPlane, Bool.or_eq_false_iff, decide_eq_false_iff_not] at hp
  case nop => intro s t h; cases h; exact samePlane_refl _ _
  case clear => intro s t h; cases h; exact samePlane_cleared (by simpa [writesPlane] using hp)
  case normalize => exact normalizeBody_keepsPlane hp
  case toGray => exact toGrayBody_keepsPlane hp
  case adjust => exact adjustBody_keepsPlane hp
  case quantThresh => exact quantThreshBody_keepsPlane hp
  case quantUniform => exact quantUniformBody_keepsPlane hp
  case quantDither => exact quantDitherBody_keepsPlane hp
  case pack1 => exact packBody_keepsPlane hp 1 blackBit
  case pack2 => exact packBody_keepsPlane hp 2 levelField
  case unpack1 => exact unpackBody_keepsPlane hp 1 intensity1 Config.shortPolicy
  case unpack2 => exact unpackBody_keepsPlane hp 2 intensity2 Config.shortPolicy
  case detect => exact detectBody_keepsPlane
  case convert =>
    obtain ⟨⟨⟨nrm, pix⟩, qnt⟩, buf⟩ := hp
    exact convertBody_keepsPlane nrm pix qnt buf

/-- The planes that taking an error with destination d invalidates (R237, R262). -/
def ErrDest.invalidates : ErrDest → Plane → Bool
  | .nrm, p => p = .nrm
  | .pix, p => p = .pix
  | .qnt, p => p = .qnt
  | .buf, p => p = .buf
  | .dec, p => p = .dec
  | .conversion, p => p = .nrm || p = .pix || p = .qnt || p = .buf
  | .vbpp, _ => false
  | .nothing, _ => false

theorem raise_samePlane {d : ErrDest} {p : Plane} (hp : d.invalidates p = false) (e : Err) (s : State) :
    SamePlane s.mem (s.raise e d).mem p := by
  cases d <;> simp only [ErrDest.invalidates, Bool.or_eq_false_iff, decide_eq_false_iff_not] at hp
  case nrm => exact samePlane_withNrm hp
  case pix => exact samePlane_withPix hp
  case qnt => exact samePlane_withQnt hp
  case buf => exact samePlane_withBuf hp
  case dec => exact samePlane_withDec hp
  case conversion =>
    obtain ⟨⟨⟨nrm, pix⟩, qnt⟩, buf⟩ := hp
    exact samePlane_trans (samePlane_withoutIntermediates nrm pix qnt) (samePlane_withBuf buf)
  case vbpp => exact samePlane_refl _ _
  case nothing => exact samePlane_refl _ _

/-- A command that raises an error invalidates the planes it writes (R262); CLEAR raises none. -/
theorem commandDest_invalidates {i : Instr} (hi : i ≠ .clear) (p : Plane) :
    (commandDest i).invalidates p = writesPlane i p := by
  cases i
  case clear => exact absurd rfl hi
  all_goals rfl

theorem raise_vbpp (e : Err) (d : ErrDest) (s : State) :
    (s.raise e d).vbpp = if d = .vbpp then 0 else s.vbpp := by
  cases d <;> rfl

end Sys2Proof.Machine
end

section
/-! SUPPORT. What no command changes and what no command reads: the statements O21, O23, O24. -/

namespace Sys2Proof.Machine

open Sys2Proof.Claims

/-! ### What a completed body keeps -/

/-- On two states with the same planes and configuration a confined body has the same outcome, but for what it does not
write. -/
theorem Confined.run_eq {len vbpp : Bool} {b : State → Except Err State} (hb : Confined len vbpp b) {s s' : State}
    (hm : s'.mem = s.mem) (hc : s'.cfg = s.cfg) : b s' = (b s).map fun t => s'.withResultsOf len vbpp t := by
  have inputs : s'.withInputsOf s = s' := by
    unfold State.withInputsOf State.withMem State.withCfg
    rw [← hm, ← hc]
  have run := hb s' s
  rwa [inputs] at run

theorem Confined.keeps {len vbpp : Bool} {b : State → Except Err State} (hb : Confined len vbpp b) {s t : State}
    (h : b s = .ok t) : t.cfg = s.cfg ∧ t.pending = s.pending ∧ t.replies = s.replies ∧ t.resets = s.resets := by
  rw [hb.result_eq h]
  exact ⟨rfl, rfl, rfl, rfl⟩

theorem Confined.keeps_length {vbpp : Bool} {b : State → Except Err State} (hb : Confined false vbpp b) {s t : State}
    (h : b s = .ok t) : t.short = s.short ∧ t.long = s.long ∧ t.dcount = s.dcount := by
  rw [hb.result_eq h]
  exact ⟨rfl, rfl, rfl⟩

theorem Confined.keeps_vbpp {len : Bool} {b : State → Except Err State} (hb : Confined len false b) {s t : State}
    (h : b s = .ok t) : t.vbpp = s.vbpp := by
  rw [hb.result_eq h]
  rfl

theorem writesLength_iff (i : Instr) : writesLength i = true ↔ i = .clear ∨ i = .unpack1 ∨ i = .unpack2 := by
  simp [writesLength, or_assoc]

theorem writesVbpp_iff (i : Instr) : writesVbpp i = true ↔ i = .clear ∨ i = .detect := by
  simp [writesVbpp]

theorem commandBody_keeps_length {i : Instr} (hi : ¬(i = .clear ∨ i = .unpack1 ∨ i = .unpack2)) {s t : State}
    (h : commandBody i s = .ok t) : t.short = s.short ∧ t.long = s.long ∧ t.dcount = s.dcount := by
  have confined := commandBody_confined i
  rw [Bool.eq_false_iff.2 (mt (writesLength_iff i).1 hi)] at confined
  exact confined.keeps_length h

theorem commandBody_keeps_vbpp {i : Instr} (hi : ¬(i = .clear ∨ i = .detect)) {s t : State}
    (h : commandBody i s = .ok t) : t.vbpp = s.vbpp := by
  have confined := commandBody_confined i
  rw [Bool.eq_false_iff.2 (mt (writesVbpp_iff i).1 hi)] at confined
  exact confined.keeps_vbpp h

/-! ### What taking an error does -/

theorem commandDest_eq_vbpp_iff (i : Instr) : commandDest i = .vbpp ↔ i = .detect := by
  cases i <;> decide

theorem clear_ne_of_error {i : Instr} {s : State} {e : Err} (h : commandBody i s = .error e) : i ≠ .clear := by
  rintro rfl
  cases h

/-- The planes after an error depend on the planes before it alone. -/
theorem raise_mem_congr (e : Err) (d : ErrDest) {s s' : State} (h : s'.mem = s.mem) :
    (s'.raise e d).mem = (s.raise e d).mem := by
  cases d <;> simp [State.raise, State.invalidate, h]

/-- Taking an error overwrites ERR. -/
theorem raise_withErr (e e' : Err) (d : ErrDest) (s : State) : (s.withErr e').raise e d = s.raise e d := by
  cases d <;> rfl

/-! ### The statements -/

/-- Settles O21: a completed body keeps everything outside the planes and result registers of its command, and an error
changes ERR and the destination alone. -/
theorem commandsChangeOnlyWhatTheTableGivesThem : Obligations.CommandsChangeOnlyWhatTheTableGivesThem := by
  intro i s
  by_cases hi : i = .nop
  · subst hi
    exact ⟨s, exec_nop s, rfl, rfl, rfl, rfl, fun p _ => samePlane_refl _ p, fun _ _ _ => ⟨rfl, rfl, rfl⟩,
      fun _ _ => rfl⟩
  rw [exec_eq_finish hi]
  cases h : commandBody i s with
  | ok u =>
    obtain ⟨cfg, pending, replies, resets⟩ := (commandBody_confined i).keeps h
    refine ⟨u.withErr .ok, rfl, cfg, pending, replies, resets, fun p hp => commandBody_keepsPlane hp s u h,
      fun h1 h2 hc => ?_, fun hd hc => ?_⟩
    · have hl : ¬(i = .clear ∨ i = .unpack1 ∨ i = .unpack2) := by simp [h1, h2, hc]
      exact commandBody_keeps_length hl (t := u) h
    · have hv : ¬(i = .clear ∨ i = .detect) := by simp [hd, hc]
      exact commandBody_keeps_vbpp hv (t := u) h
  | error e =>
    have planes (p : Plane) (hp : writesPlane i p = false) : SamePlane s.mem (s.raise e (commandDest i)).mem p :=
      raise_samePlane (by rwa [commandDest_invalidates (clear_ne_of_error h)]) e s
    refine ⟨s.raise e (commandDest i), rfl, by simp, by simp, by simp, by simp, planes, fun _ _ _ => by simp,
      fun hd _ => ?_⟩
    rw [raise_vbpp, if_neg (mt (commandDest_eq_vbpp_iff i).1 hd)]

/-- Settles O23: a body does not read ERR, and `finish` overwrites it either way. -/
theorem errIsOverwrittenByEveryCommandButNop : Obligations.ErrIsOverwrittenByEveryCommandButNop := by
  intro i s e hi
  have run : commandBody i { s with err := e } = _ := (commandBody_confined i).run_eq (s := s) rfl rfl
  rw [exec_eq_finish hi, exec_eq_finish hi, run]
  cases h : commandBody i s with
  | ok u =>
    have results : u = s.withResultsOf _ _ u := (commandBody_confined i).result_eq h
    exact congrArg (fun t => Host.Outcome.next (t.withErr .ok)) results.symm
  | error e' => exact congrArg Host.Outcome.next (raise_withErr e' e (commandDest i) s)

/-- Settles O24: a body reads the planes and the configuration alone, so both runs raise the same error or complete with
the same results. -/
theorem noCommandReadsTheResultRegisters : Obligations.NoCommandReadsTheResultRegisters := by
  intro i s sh lo d v
  by_cases hi : i = .nop
  · subst hi
    exact ⟨s, _, exec_nop s, exec_nop _, rfl, rfl, rfl, rfl, rfl, rfl, by simp,
      fun _ => ⟨rfl, rfl, rfl, rfl, rfl, rfl⟩, by simp, fun _ => ⟨rfl, rfl⟩⟩
  have run : commandBody i { s with short := sh, long := lo, dcount := d, vbpp := v } = _ :=
    (commandBody_confined i).run_eq (s := s) rfl rfl
  rw [exec_eq_finish hi, exec_eq_finish hi, run]
  cases h : commandBody i s with
  | ok u =>
    obtain ⟨cfg, pending, replies, resets⟩ := (commandBody_confined i).keeps h
    refine ⟨_, _, rfl, rfl, rfl, rfl, cfg.symm, pending.symm, replies.symm, resets.symm, fun hl => ?_, fun hl => ?_,
      fun hv => ?_, fun hv => ?_⟩
    · have writes : writesLength i = true := (writesLength_iff i).2 (hl.imp_right And.left)
      simp [State.withResultsOf, writes]
    · have hl' : ¬(i = .clear ∨ i = .unpack1 ∨ i = .unpack2) := fun w => hl (w.imp_right fun w => ⟨w, rfl⟩)
      obtain ⟨short, long, dcount⟩ := commandBody_keeps_length hl' h
      exact ⟨short, long, dcount, by simp [State.withResultsOf, writesLength_iff, hl']⟩
    · simp [State.withResultsOf, writesVbpp_iff, hv]
    · exact ⟨commandBody_keeps_vbpp hv (t := u) h, by simp [State.withResultsOf, writesVbpp_iff, hv]⟩
  | error e =>
    have he : e ≠ .ok := commandBody_raisesErrors i s e h
    have hc : i ≠ .clear := clear_ne_of_error h
    refine ⟨_, _, rfl, rfl, raise_mem_congr e _ rfl, rfl, by simp, by simp, by simp, by simp, by simp [he, hc],
      fun _ => by simp, fun hv => ?_, fun hv => ?_⟩
    · simp [raise_vbpp, commandDest_eq_vbpp_iff, hv.resolve_left hc]
    · have hd : i ≠ .detect := fun w => hv (.inr w)
      simp [raise_vbpp, commandDest_eq_vbpp_iff, hd]

end Sys2Proof.Machine
end

section
/-! SUPPORT. The invariant after reset and over a step: O15, O16. -/

namespace Sys2Proof.Machine

/-! ### Commands -/

theorem cleared_wf {m : Memory} (hm : m.wf = true) : m.cleared.wf = true := by
  have hn : ∀ {α : Type} {p : α → Prop}, ∀ g, (none : Option α) = some g → p g := by rintro _ _ _ ⟨⟩
  exact wf_withDec (wf_withBuf (wf_withQnt (wf_withPix (wf_withNrm hm hn) hn) hn) hn) hn

theorem commandBody_keeps_wf {i : Instr} {s t : State} (hs : s.mem.wf = true) (h : commandBody i s = .ok t) :
    t.mem.wf = true := by
  cases i
  case nop => cases h; exact hs
  case clear => cases h; exact cleared_wf hs
  case normalize => exact normalizeBody_keeps_wf hs h
  case toGray => exact toGrayBody_keeps_wf hs h
  case adjust => exact adjustBody_keeps_wf hs h
  case quantThresh => exact quantThreshBody_keeps_wf hs h
  case quantUniform => exact quantUniformBody_keeps_wf hs h
  case quantDither => exact quantDitherBody_keeps_wf hs h
  case pack1 => exact pack1Body_keeps_wf hs h
  case pack2 => exact pack2Body_keeps_wf hs h
  case unpack1 => exact unpack1Body_keeps_wf hs h
  case unpack2 => exact unpack2Body_keeps_wf hs h
  case detect => rw [detectBody_keeps_mem h]; exact hs
  case convert => exact convertBody_keeps_wf hs h

/-- A buffer is not both shorter and longer than expected (R40, R205). -/
theorem unpackBody_not_short_and_long {bpp : Nat} {f : Byte → Byte} {p : Config.ShortPolicy} {s t : State}
    (h : unpackBody bpp f p s = .ok t) : ¬(t.short = true ∧ t.long = true) := by
  obtain ⟨-, -, bytes, -, rfl⟩ := unpackBody_ok h
  simp only [State.withLength_short, State.withLength_long, shortFlag, longFlag, decide_eq_true_eq]
  omega

theorem commandBody_keeps_flags {i : Instr} {s t : State} (hs : ¬(s.short = true ∧ s.long = true))
    (h : commandBody i s = .ok t) : ¬(t.short = true ∧ t.long = true) := by
  by_cases hi : i = .clear ∨ i = .unpack1 ∨ i = .unpack2
  · obtain rfl | rfl | rfl := hi
    · cases h; simp
    · exact unpackBody_not_short_and_long h
    · exact unpackBody_not_short_and_long h
  · obtain ⟨short, long, -⟩ := commandBody_keeps_length hi h
    rwa [short, long]

theorem commandBody_keeps_vbpp_le {i : Instr} {s t : State} (hs : s.vbpp.toNat ≤ 2) (h : commandBody i s = .ok t) :
    t.vbpp.toNat ≤ 2 := by
  by_cases hi : i = .clear ∨ i = .detect
  · obtain rfl | rfl := hi
    · cases h; simp
    · obtain ⟨-, -, bytes, -, ⟨-, rfl⟩ | ⟨-, -, rfl⟩⟩ := detectBody_ok h <;> simp
  · rwa [commandBody_keeps_vbpp hi h]

theorem commandBody_keeps_inv {i : Instr} {s t : State} (hs : Inv s) (h : commandBody i s = .ok t) : Inv t := by
  obtain ⟨wf, flags, vbpp⟩ := hs
  exact ⟨commandBody_keeps_wf wf h, commandBody_keeps_flags flags h, commandBody_keeps_vbpp_le vbpp h⟩

theorem raise_keeps_inv {s : State} (hs : Inv s) (e : Err) (d : ErrDest) : Inv (s.raise e d) := by
  obtain ⟨wf, flags, vbpp⟩ := hs
  refine ⟨raise_keeps_wf wf, by simpa using flags, ?_⟩
  rw [raise_vbpp]
  split_ifs
  · simp
  · exact vbpp

theorem exec_keeps_inv {i : Instr} {s t : State} (hs : Inv s) (h : exec i s = .next t) : Inv t := by
  by_cases hi : i = .nop
  · subst hi
    cases (exec_nop s).symm.trans h
    exact hs
  rw [exec_eq_finish hi] at h
  obtain ⟨u, hu, rfl⟩ | ⟨e, -, rfl⟩ := finish_cases h
  · exact commandBody_keeps_inv (t := u) hs hu
  · exact raise_keeps_inv hs e _

theorem runWord_keeps_inv {c : CmdWord} {s t : State} (hs : Inv s) (h : runWord c s = .next t) : Inv t := by
  unfold runWord at h
  split at h
  · exact exec_keeps_inv hs h
  · cases h; exact raise_keeps_inv hs _ _

/-! ### The other moves of HOST -/

theorem writeReg_eq_withCfg (s : State) (n : BitVec 8) (v : Word) : ∃ c, s.writeReg n v = s.withCfg c := by
  unfold State.writeReg
  split <;> exact ⟨_, rfl⟩

theorem resetWith_inv (c : ConfigRegs) : Inv (State.resetWith c) := ⟨memory_empty_wf, by simp, by simp⟩

theorem hostMove_keeps_inv {m : HostMove} {s t : State} (hs : Inv s) (h : hostMove m s = .next t) : Inv t := by
  cases m with
  | regRead n => cases h; exact hs
  | regWrite n v =>
    simp only [hostMove] at h
    split_ifs at h
    · exact runWord_keeps_inv hs h
    · obtain ⟨c, hc⟩ := writeReg_eq_withCfg s n v
      cases h
      rw [hc]
      exact hs
  | planeRead p i =>
    simp only [hostMove] at h
    split at h <;> cases h
    exact hs
  | planeLoad p w h' aux data =>
    simp only [hostMove] at h
    split at h <;> cases h
    next m hm => exact ⟨load_keeps_wf hs.1 hm, hs.2⟩
  | planeDrop p =>
    simp only [hostMove] at h
    split at h <;> cases h
    next m hm => exact ⟨drop_keeps_wf hs.1 hm, hs.2⟩
  | reset => cases h; exact resetWith_inv (drawnConfig s.resets)

/-! ### The statements -/

/-- Settles O15: every plane is invalid, and the flags and VBPP are 0. -/
theorem resetMeetsTheInvariant : Obligations.ResetMeetsTheInvariant :=
  ⟨resetWith_inv ConfigRegs.zero, resetWith_inv⟩

/-- Settles O16: a step is idle or one move of HOST, and every move keeps the invariant. -/
theorem everyStepKeepsTheInvariant : Obligations.EveryStepKeepsTheInvariant := by
  intro s t hs h
  simp only [step, issueNext] at h
  split at h
  next => cases h; exact hs
  next m rest _ =>
    have hs' : Inv (s.withPending rest) := hs
    exact hostMove_keeps_inv hs' h

end Sys2Proof.Machine
end

section
/-! SUPPORT. CONVERT reads SRC and the configuration alone (spec/45_system.md R235): O58. Each of its stages reads, beside
the configuration, only the plane that the stage before has written. -/

namespace Sys2Proof.Machine

/-! ### Two runs that end alike -/

/-- Both outcomes are the same error, or both are states, related by r. -/
def SameEnd (r : State → State → Prop) : Except Err State → Except Err State → Prop
  | .ok t, .ok t' => r t t'
  | .error e, .error e' => e = e'
  | _, _ => False

theorem SameEnd.bind {r q : State → State → Prop} {x x' : Except Err State} {f : State → Except Err State}
    (hx : SameEnd r x x') (hf : ∀ t t', r t t' → SameEnd q (f t) (f t')) : SameEnd q (x >>= f) (x' >>= f) := by
  cases x <;> cases x'
  case ok.ok t t' => exact hf t t' hx
  case error.error e e' => exact hx
  case ok.error => exact hx.elim
  case error.ok => exact hx.elim

/-- Two states with the same content of one plane and the same configuration. -/
def Agree {α : Type} (plane : Memory → α) (s s' : State) : Prop := plane s.mem = plane s'.mem ∧ s.cfg = s'.cfg

/-- From two states that agree on the plane `source` and the configuration, b ends alike, in states that agree on the plane
`dest`. -/
def Stage {α β : Type} (source : Memory → α) (dest : Memory → β) (b : State → Except Err State) : Prop :=
  ∀ s s' : State, Agree source s s' → SameEnd (Agree dest) (b s) (b s')

section
variable {α β γ : Type} {x : Memory → α} {y : Memory → β} {z : Memory → γ} {a b : State → Except Err State}

theorem Stage.error (e : Err) : Stage x y fun _ => .error e := fun _ _ _ => rfl

theorem Stage.ite {c : State → Prop} [DecidablePred c] (hc : ∀ s s', s.cfg = s'.cfg → (c s ↔ c s'))
    (ha : Stage x y a) (hb : Stage x y b) : Stage x y fun s => if c s then a s else b s := by
  intro s s' h
  have hcs := hc s s' h.2
  by_cases hs : c s
  · simpa only [← hcs, hs, if_true] using ha s s' h
  · simpa only [← hcs, hs, if_false] using hb s s' h

theorem Stage.bind (ha : Stage x y a) (hb : Stage y z b) : Stage x z fun s => a s >>= b :=
  fun s s' h => (ha s s' h).bind hb

end

/-! ### The stages of CONVERT -/

theorem normalizeBody_stage : Stage Memory.src Memory.nrm normalizeBody := by
  refine .ite (fun s s' h => by simp only [State.targetW, State.targetH, h]) (.error .config) ?_
  rintro s s' ⟨plane, cfg⟩
  dsimp only
  rw [plane, cfg]
  cases s'.mem.src with
  | none => rfl
  | some g =>
    dsimp only
    split_ifs
    · rfl
    · exact ⟨rfl, cfg⟩
    · rfl

theorem toGrayBody_stage : Stage Memory.nrm Memory.pix toGrayBody := by
  rintro s s' ⟨plane, cfg⟩
  simp only [toGrayBody, plane]
  cases s'.mem.nrm with
  | none => rfl
  | some g => exact ⟨rfl, cfg⟩

theorem adjustBody_stage : Stage Memory.pix Memory.pix adjustBody := by
  rintro s s' ⟨plane, cfg⟩
  simp only [adjustBody, plane, cfg]
  cases s'.mem.pix with
  | none => rfl
  | some g => exact ⟨rfl, cfg⟩

theorem quantBody_stage (domain : Nat → Bool) (levels : ConfigRegs → Grid → List Level) :
    Stage Memory.pix Memory.qnt fun s => quantBody domain (levels s.cfg) s := by
  refine .ite (fun s s' h => by simp only [State.levelCount, h]) (.error .unsupportedLevels)
    (.ite (fun s s' h => by simp only [State.levelCount, h]) (.error .unsupportedLevels) ?_)
  rintro s s' ⟨plane, cfg⟩
  dsimp only
  rw [plane, cfg]
  cases s'.mem.pix with
  | none => rfl
  | some g => exact ⟨rfl, cfg⟩

theorem quantThreshBody_stage : Stage Memory.pix Memory.qnt quantThreshBody :=
  quantBody_stage (· == 2) fun c => Grid.thresholded c.thresh

theorem quantUniformBody_stage : Stage Memory.pix Memory.qnt quantUniformBody :=
  quantBody_stage (· == 4) fun _ => Grid.uniform 4

theorem quantDitherBody_stage : Stage Memory.pix Memory.qnt quantDitherBody :=
  quantBody_stage (fun n => n == 2 || n == 4) fun c => Grid.dithered c.levels.toNat

theorem packBody_stage (bpp : Nat) (field : Level → Byte) : Stage Memory.qnt Memory.buf (packBody bpp field) := by
  rintro s s' ⟨plane, cfg⟩
  simp only [packBody, plane]
  cases s'.mem.qnt with
  | none => rfl
  | some g =>
    dsimp only
    split_ifs
    · exact ⟨rfl, cfg⟩
    · rfl

theorem convertTail_stage : Stage Memory.pix Memory.buf convertTail :=
  .ite (fun s s' h => by simp only [State.levelCount, h])
    (.ite (fun s s' h => by simp only [State.ditherOn, h])
      (adjustBody_stage.bind (quantDitherBody_stage.bind (packBody_stage 1 blackBit)))
      (quantThreshBody_stage.bind (packBody_stage 1 blackBit)))
    (quantUniformBody_stage.bind (packBody_stage 2 levelField))

theorem convertStages_stage : Stage Memory.src Memory.buf convertStages :=
  .ite (fun s s' h => by simp only [State.levelCount, h]) (.error .unsupportedLevels)
    (normalizeBody_stage.bind (toGrayBody_stage.bind convertTail_stage))

theorem convertBody_stage : Stage Memory.src Memory.buf convertBody :=
  convertStages_stage.bind fun _ _ h => h

/-- Settles O58: the stages hand on one plane each, from SRC to BUF, and an error leaves BUF invalid. -/
theorem convertDependsOnSourceAndConfigurationOnly : Obligations.ConvertDependsOnSourceAndConfigurationOnly := by
  intro s s' src cfg
  have runs : SameEnd (Agree Memory.buf) (convertBody s) (convertBody s') := convertBody_stage s s' ⟨src, cfg⟩
  simp only [exec, execConvert]
  cases h : convertBody s <;> cases h' : convertBody s' <;> rw [h, h'] at runs
  case ok.ok t t' => exact ⟨_, _, rfl, rfl, runs.1, rfl⟩
  case error.error e e' => exact ⟨_, _, rfl, rfl, rfl, runs⟩
  case ok.error => exact runs.elim
  case error.ok => exact runs.elim

end Sys2Proof.Machine
end

section
/-! SUPPORT. The register map (spec/10_state.md R32, R38, R42, R43, R51): O3, O10, O11, O13. -/

namespace Sys2Proof.Machine

open Sys2Proof.Claims

/-! ### The write to CMD -/

/-- Settles O3: the write to register 0x00 is the move that runs the word v[7:0]. -/
theorem stepRunsTheCommandWrittenToCmd : Obligations.StepRunsTheCommandWrittenToCmd := by
  refine ⟨fun s v rest i hs hi _ => ?_, fun s => rfl⟩
  have word : decode (v.setWidth 8) = .ok i := hi
  simp only [step, issueNext, hs, hostMove, cmdNumber, if_true, runWord, word]
  rfl

/-! ### Registers without storage of their own -/

theorem planeOfNumber_eq_none {k : Nat} (hk : 7 ≤ k) : planeOfNumber k = none := by
  unfold planeOfNumber
  split <;> try omega
  rfl

@[simp] theorem planeOfNumber_planeNumber (p : Plane) : planeOfNumber (planeNumber p) = some p := by
  cases p <;> rfl

theorem planeNumber_le (p : Plane) : planeNumber p ≤ 6 := by
  cases p <;> decide

/-- Above DCOUNT's number every register is a view of a plane or reserved (R42). -/
theorem readReg_eq_readAttribute (s : State) {n : BitVec 8} (hn : 0x0B ≤ n.toNat) :
    s.readReg n = s.readAttribute n.toNat := by
  unfold State.readReg
  split <;> try omega
  rfl

/-- CONTRAST's number is the last that takes a write (R42). -/
theorem writeReg_of_readOnly (s : State) {n : BitVec 8} (hn : 0x09 ≤ n.toNat) (v : Word) : s.writeReg n v = s := by
  unfold State.writeReg
  split <;> try omega
  rfl

theorem readReg_of_reserved (s : State) {n : BitVec 8} (hn : (0x0B ≤ n.toNat ∧ n.toNat ≤ 0x1F) ∨ 0x3C ≤ n.toNat) :
    s.readReg n = 0#32 := by
  rw [readReg_eq_readAttribute s (by omega), State.readAttribute]
  split_ifs
  · rfl
  · have none : planeOfNumber ((n.toNat - 0x20) / 4) = none := planeOfNumber_eq_none (by omega)
    simp only [none]
    rfl

/-! ### The plane registers 0x20 + 4·p + k (R32) -/

theorem planeRegister_toNat (p : Plane) {k : Nat} (hk : k < 4) :
    (BitVec.ofNat 8 (0x20 + 4 * planeNumber p + k)).toNat = 0x20 + 4 * planeNumber p + k := by
  have := planeNumber_le p
  rw [BitVec.toNat_ofNat]
  omega

theorem readReg_planeRegister (s : State) (p : Plane) {k : Nat} (hk : k < 4) :
    s.readReg (BitVec.ofNat 8 (0x20 + 4 * planeNumber p + k)) = (s.mem.attributes p).select k := by
  have number := planeRegister_toNat p hk
  rw [readReg_eq_readAttribute s (by omega), number, State.readAttribute, if_neg (by omega)]
  have plane : (0x20 + 4 * planeNumber p + k - 0x20) / 4 = planeNumber p := by omega
  have index : (0x20 + 4 * planeNumber p + k - 0x20) % 4 = k := by omega
  rw [plane, index, planeOfNumber_planeNumber]

/-- The four registers of plane p, whose contents are a. -/
theorem planeRegisters_eq {s : State} {p : Plane} {a : Attributes} (ha : s.mem.attributes p = a) :
    s.readReg (BitVec.ofNat 8 (0x20 + 4 * planeNumber p)) = a.w.setWidth 32 ∧
    s.readReg (BitVec.ofNat 8 (0x20 + 4 * planeNumber p + 1)) = a.h.setWidth 32 ∧
    s.readReg (BitVec.ofNat 8 (0x20 + 4 * planeNumber p + 2)) = a.aux.setWidth 32 ∧
    s.readReg (BitVec.ofNat 8 (0x20 + 4 * planeNumber p + 3)) = a.len := by
  subst ha
  exact ⟨readReg_planeRegister s p (k := 0) (by decide), readReg_planeRegister s p (k := 1) (by decide),
    readReg_planeRegister s p (k := 2) (by decide), readReg_planeRegister s p (k := 3) (by decide)⟩

theorem attributes_of_invalid {m : Memory} {p : Plane} (hp : m.valid p = false) :
    m.attributes p = Attributes.zero := by
  cases p <;> simp only [Memory.valid, Option.isSome_eq_false_iff, Option.isNone_iff_eq_none] at hp <;>
    simp [Memory.attributes, hp]

theorem select_zero (k : Nat) : Attributes.zero.select k = 0#32 := by
  unfold Attributes.select
  split <;> rfl

theorem toNat_of_eq_setWidth {w : Nat} {r : Word} {v : BitVec w} (hw : w ≤ 32) (h : r = v.setWidth 32) :
    r.toNat = v.toNat := by
  rw [h, BitVec.toNat_setWidth_of_le hw]

/-- A 32-bit view of a value of width w. -/
theorem toNat_setWidth_lt {w : Nat} (v : BitVec w) : (v.setWidth 32).toNat < 2 ^ w := by
  rw [BitVec.toNat_setWidth]
  exact lt_of_le_of_lt (Nat.mod_le _ _) v.isLt

theorem select_lt (a : Attributes) {k : Nat} (hk : k < 4) :
    (a.select k).toNat < 2 ^ (if k < 2 then 16 else if k = 2 then 8 else 32) := by
  obtain rfl | rfl | rfl | rfl : k = 0 ∨ k = 1 ∨ k = 2 ∨ k = 3 := by omega
  · exact toNat_setWidth_lt a.w
  · exact toNat_setWidth_lt a.h
  · exact toNat_setWidth_lt a.aux
  · exact a.len.isLt

/-- Settles O13: register 0x20 + 4·p + k is entry k of the plane's row, which its kind fills. -/
theorem attributeRegistersShowThePlanes : Obligations.AttributeRegistersShowThePlanes := by
  intro s
  have show16 {r : Word} {v : Dim} (h : r = v.setWidth 32) : r.toNat = v.toNat := toNat_of_eq_setWidth (by decide) h
  have show8 {r : Word} {v : BitVec 8} (h : r = v.setWidth 32) : r.toNat = v.toNat :=
    toNat_of_eq_setWidth (by decide) h
  refine ⟨fun p k hk hp => ?_, fun p k v hk => ?_, fun g hg => ?_, fun g hg => ?_, fun g hg => ?_, fun g hg => ?_,
    fun b hb => ?_, fun l hl => ?_, fun g hg => ?_⟩
  · rw [readReg_planeRegister s p hk, attributes_of_invalid hp, select_zero]
  · exact writeReg_of_readOnly s (by rw [planeRegister_toNat p hk]; omega) v
  · have src : s.mem.attributes .src = g.attributes := by simp [Memory.attributes, hg]
    obtain ⟨w, h, aux, len⟩ := planeRegisters_eq src
    exact ⟨show16 w, show16 h, show8 aux, len⟩
  · have nrm : s.mem.attributes .nrm = g.attributes := by simp [Memory.attributes, hg]
    obtain ⟨w, h, aux, len⟩ := planeRegisters_eq nrm
    exact ⟨show16 w, show16 h, show8 aux, len⟩
  · have pix : s.mem.attributes .pix = g.attributes := by simp [Memory.attributes, hg]
    obtain ⟨w, h, aux, len⟩ := planeRegisters_eq pix
    exact ⟨show16 w, show16 h, aux, len⟩
  · have qnt : s.mem.attributes .qnt = g.attributes := by simp [Memory.attributes, hg]
    obtain ⟨w, h, aux, len⟩ := planeRegisters_eq qnt
    exact ⟨show16 w, show16 h, show8 aux, len⟩
  · have buf : s.mem.attributes .buf = b.attributes := by simp [Memory.attributes, hb]
    obtain ⟨w, h, aux, len⟩ := planeRegisters_eq buf
    exact ⟨show16 w, show16 h, show8 aux, len⟩
  · have vbuf : s.mem.attributes .vbuf = vbufAttributes l := by simp [Memory.attributes, hl]
    exact planeRegisters_eq vbuf
  · have dec : s.mem.attributes .dec = g.attributes := by simp [Memory.attributes, hg]
    obtain ⟨w, h, aux, len⟩ := planeRegisters_eq dec
    exact ⟨show16 w, show16 h, aux, len⟩

/-! ### The read/write registers -/

theorem writableWidth_eq_some {n : BitVec 8} {b : Nat} (h : writableWidth n.toNat = some b) :
    (n = 0x02#8 ∧ b = 16) ∨ (n = 0x03#8 ∧ b = 16) ∨ (n = 0x04#8 ∧ b = 8) ∨ (n = 0x05#8 ∧ b = 1) ∨
    (n = 0x06#8 ∧ b = 8) ∨ (n = 0x07#8 ∧ b = 16) ∨ (n = 0x08#8 ∧ b = 16) := by
  simp only [← BitVec.toNat_inj, BitVec.toNat_ofNat]
  unfold writableWidth at h
  split_ifs at h <;> cases h <;> omega

theorem readReg_lt_of_writable (s : State) {n : BitVec 8} {b : Nat} (h : writableWidth n.toNat = some b) :
    (s.readReg n).toNat < 2 ^ b := by
  obtain ⟨rfl, rfl⟩ | ⟨rfl, rfl⟩ | ⟨rfl, rfl⟩ | ⟨rfl, rfl⟩ | ⟨rfl, rfl⟩ | ⟨rfl, rfl⟩ | ⟨rfl, rfl⟩ :=
    writableWidth_eq_some h <;> exact toNat_setWidth_lt _

theorem setWidth_congr {b : Nat} {v v' : Word} (h : v.toNat % 2 ^ b = v'.toNat % 2 ^ b) :
    v.setWidth b = v'.setWidth b :=
  BitVec.eq_of_toNat_eq (by simpa using h)

theorem writeReg_congr_of_writable (s : State) {n : BitVec 8} {b : Nat} (h : writableWidth n.toNat = some b)
    {v v' : Word} (hv : v.toNat % 2 ^ b = v'.toNat % 2 ^ b) : s.writeReg n v = s.writeReg n v' := by
  have low := setWidth_congr hv
  obtain ⟨rfl, rfl⟩ | ⟨rfl, rfl⟩ | ⟨rfl, rfl⟩ | ⟨rfl, rfl⟩ | ⟨rfl, rfl⟩ | ⟨rfl, rfl⟩ | ⟨rfl, rfl⟩ :=
    writableWidth_eq_some h <;> simp [State.writeReg, low]

/-- Settles O10: a reserved number is no register, a stored register holds the low bits of a write alone, and every other
view has the width of what it shows. -/
theorem reservedRegistersAndBitsReadZeroAndIgnoreWrites :
    Obligations.ReservedRegistersAndBitsReadZeroAndIgnoreWrites := by
  refine ⟨fun s n hn => ⟨readReg_of_reserved s hn, writeReg_of_readOnly s (by omega)⟩,
    fun s n b hb => ⟨readReg_lt_of_writable s hb, fun v v' => writeReg_congr_of_writable s hb⟩,
    fun s => ⟨rfl, toNat_setWidth_lt s.vbpp⟩, fun s p k hk => ?_⟩
  rw [readReg_planeRegister s p hk]
  exact select_lt _ hk

/-! ### STATUS -/

/-- Bit i of STATUS, by the fields of R38 from the lowest. -/
theorem statusWord_getLsbD (s : State) (i : Nat) :
    s.statusWord.getLsbD i =
      if i < 4 then s.err.code.getLsbD i
      else if i = 4 then s.short
      else if i = 5 then s.long
      else if i < 8 then false
      else if i < 15 then s.mem.validBits.getLsbD (i - 8)
      else false := by
  simp only [State.statusWord, State.statusBits, BitVec.getLsbD_setWidth, BitVec.getLsbD_append, BitVec.getLsbD_ofBool,
    BitVec.getLsbD_zero]
  split_ifs <;> try omega
  · simp [show i < 32 by omega]
  · simp [‹i = 4›]
  · simp [‹i = 5›]
  · simp
  · simp [Nat.sub_sub, show i < 32 by omega]
  · simp

theorem validBits_getLsbD (m : Memory) (p : Plane) : m.validBits.getLsbD (planeNumber p) = m.valid p := by
  cases p <;> simp only [Memory.validBits, planeNumber, BitVec.getLsbD_append, BitVec.getLsbD_ofBool] <;> simp

/-- Settles O11: each bit of STATUS falls in the field of its place. -/
theorem statusWordHasTheFieldsOfItsTable : Obligations.StatusWordHasTheFieldsOfItsTable := by
  intro s
  have bits : ∀ i, (s.readReg 0x01#8).getLsbD i = _ := statusWord_getLsbD s
  refine ⟨?_, bits 4, bits 5, bits 6, bits 7, fun p => ?_, fun i hi => ?_⟩
  · refine BitVec.eq_of_getLsbD_eq fun i hi => ?_
    rw [BitVec.getLsbD_extractLsb', Nat.zero_add, bits, if_pos hi]
    simp [hi]
  · have := planeNumber_le p
    rw [bits]
    iterate 4 rw [if_neg (by omega)]
    rw [if_pos (by omega), Nat.add_sub_cancel_left, validBits_getLsbD]
  · rw [bits]
    iterate 5 rw [if_neg (by omega)]

end Sys2Proof.Machine
end

section
/-! SUPPORT. The register port and the plane port as steps of HOST (spec/20_memory.md R60 to R68): O8, O9, O17 to O20. -/

namespace Sys2Proof.Machine

open Sys2Proof.Claims

/-! ### HOST's next primitive as a step -/

section
variable {s : State} {rest : List HostMove}

theorem step_eq_hostMove {m : HostMove} (hs : s.pending = m :: rest) : step s = hostMove m (s.withPending rest) := by
  simp only [step, issueNext, hs]

theorem step_regWrite {n : BitVec 8} {v : Word} (hs : s.pending = .regWrite n v :: rest) (hn : n ≠ cmdNumber) :
    step s = .next ((s.withPending rest).writeReg n v) := by
  rw [step_eq_hostMove hs, hostMove, if_neg hn]

theorem step_planeRead_ok {p : Plane} {i : Nat} {v : Byte} (hs : s.pending = .planeRead p i :: rest)
    (h : s.mem.element p i = .ok v) : step s = .next ((s.withPending rest).withReply (.element v)) := by
  simp only [step_eq_hostMove hs, hostMove, State.withPending_mem, h]

theorem step_planeRead_error {p : Plane} {i : Nat} {r : Refusal} (hs : s.pending = .planeRead p i :: rest)
    (h : s.mem.element p i = .error r) : step s = .refused r := by
  simp only [step_eq_hostMove hs, hostMove, State.withPending_mem, h]

theorem step_planeLoad_ok {p : Plane} {w h aux : Nat} {data : List Nat} {m : Memory}
    (hs : s.pending = .planeLoad p w h aux data :: rest) (hm : s.mem.load p w h aux data = .ok m) :
    step s = .next ((s.withPending rest).withMem m) := by
  simp only [step_eq_hostMove hs, hostMove, State.withPending_mem, hm]

theorem step_planeLoad_error {p : Plane} {w h aux : Nat} {data : List Nat} {r : Refusal}
    (hs : s.pending = .planeLoad p w h aux data :: rest) (hr : s.mem.load p w h aux data = .error r) :
    step s = .refused r := by
  simp only [step_eq_hostMove hs, hostMove, State.withPending_mem, hr]

theorem step_planeDrop_ok {p : Plane} {m : Memory} (hs : s.pending = .planeDrop p :: rest)
    (hm : s.mem.drop p = .ok m) : step s = .next ((s.withPending rest).withMem m) := by
  simp only [step_eq_hostMove hs, hostMove, State.withPending_mem, hm]

theorem step_planeDrop_error {p : Plane} {r : Refusal} (hs : s.pending = .planeDrop p :: rest)
    (hr : s.mem.drop p = .error r) : step s = .refused r := by
  simp only [step_eq_hostMove hs, hostMove, State.withPending_mem, hr]

end

/-! ### A register after a write (R66) -/

theorem writeReg_of_not_writable (s : State) {n : BitVec 8} (hn : writableWidth n.toNat = none) (v : Word) :
    s.writeReg n v = s := by
  unfold State.writeReg
  split
  case h_8 => rfl
  all_goals
    rename_i number
    simp [writableWidth, number] at hn

theorem readReg_writeReg_self (s : State) {n : BitVec 8} {b : Nat} (h : writableWidth n.toNat = some b) (v : Word) :
    ((s.writeReg n v).readReg n).toNat = v.toNat % 2 ^ b := by
  rw [← BitVec.toNat_setWidth]
  obtain ⟨rfl, rfl⟩ | ⟨rfl, rfl⟩ | ⟨rfl, rfl⟩ | ⟨rfl, rfl⟩ | ⟨rfl, rfl⟩ | ⟨rfl, rfl⟩ | ⟨rfl, rfl⟩ :=
    writableWidth_eq_some h <;> exact toNat_of_eq_setWidth (by decide) rfl

/-- No two registers share storage: the cases left after the numbers are compared read a field that was not written. -/
theorem readReg_writeReg_of_ne (s : State) {n k : BitVec 8} (hk : k ≠ n) (v : Word) :
    (s.writeReg n v).readReg k = s.readReg k := by
  have number : k.toNat ≠ n.toNat := fun h => hk (BitVec.eq_of_toNat_eq h)
  unfold State.writeReg
  split <;> unfold State.readReg <;> split <;> try omega
  all_goals rfl

/-- Settles O8: the register written holds the low bits, every other one is left alone. -/
theorem registerWriteStoresLowBitsOfThatRegisterOnly : Obligations.RegisterWriteStoresLowBitsOfThatRegisterOnly := by
  intro s n v rest hs hn
  obtain ⟨c, hc⟩ := writeReg_eq_withCfg (s.withPending rest) n v
  refine ⟨c, by rw [step_regWrite hs hn, hc]; rfl, fun k => ?_⟩
  change (((s.withPending rest).withCfg c).readReg k).toNat = _
  rw [← hc]
  split
  next b hb =>
    split_ifs with hk
    · subst hk
      exact readReg_writeReg_self _ hb v
    · rw [readReg_writeReg_of_ne _ hk]
      rfl
  next hb =>
    rw [writeReg_of_not_writable _ hb]
    rfl

/-! ### A register read (R66) -/

theorem readReg_of_planeNumber (s : State) {n : BitVec 8} {p : Plane} {k : Nat} (hk : k < 4)
    (hn : n.toNat = 0x20 + 4 * planeNumber p + k) : s.readReg n = (s.mem.attributes p).select k := by
  have number : n = BitVec.ofNat 8 (0x20 + 4 * planeNumber p + k) :=
    BitVec.eq_of_toNat_eq (by rw [hn, planeRegister_toNat p hk])
  rw [number, readReg_planeRegister s p hk]

/-- Settles O9: a read hands out the register of its number, stored, derived from the planes, or reserved. -/
theorem registerReadReturnsItsValueAndChangesNothing : Obligations.RegisterReadReturnsItsValueAndChangesNothing := by
  intro s n rest hs
  have stored {w : Nat} {v : BitVec w} {k : BitVec 8} (hw : w ≤ 32) (hv : s.readReg k = v.setWidth 32) (hk : n = k) :
      (s.readReg n).toNat = v.toNat := toNat_of_eq_setWidth hw (hk ▸ hv)
  have same {v : Word} {k : BitVec 8} (hv : s.readReg k = v) (hk : n = k) : s.readReg n = v := hk ▸ hv
  refine ⟨s.readReg n, step_eq_hostMove hs, rfl, fun h => h ▸ rfl, same rfl, stored (by decide) rfl, stored (by decide) rfl,
    stored (by decide) rfl, stored (by decide) rfl, stored (by decide) rfl, stored (by decide) rfl,
    stored (by decide) rfl, stored (by decide) rfl, same rfl, fun h => ?_, fun p h => ?_, fun p h => ?_, fun p h => ?_,
    fun p h => ?_⟩
  · rw [readReg_of_reserved s h]
    rfl
  · exact toNat_of_eq_setWidth (by decide) (readReg_of_planeNumber s (k := 0) (by decide) h)
  · exact toNat_of_eq_setWidth (by decide) (readReg_of_planeNumber s (k := 1) (by decide) h)
  · exact toNat_of_eq_setWidth (by decide) (readReg_of_planeNumber s (k := 2) (by decide) h)
  · exact readReg_of_planeNumber s (k := 3) (by decide) h

/-! ### A plane read (R60, R61, R67) -/

theorem element_of_invalid {m : Memory} {p : Plane} (hp : m.valid p = false) (i : Nat) :
    m.element p i = .error .planeInvalid := by
  have none : m.elements p = none := by simpa [valid_iff_elements] using hp
  simp only [Memory.element, none]

theorem element_of_length_le {m : Memory} {p : Plane} {l : List (Option Byte)} (hl : m.elements p = some l) {i : Nat}
    (hi : l.length ≤ i) : m.element p i = .error .indexOutOfRange := by
  simp only [Memory.element, hl, List.getElem?_eq_none hi]

theorem element_of_no_value {m : Memory} {p : Plane} {l : List (Option Byte)} (hl : m.elements p = some l) {i : Nat}
    (hi : l[i]? = some none) : m.element p i = .error .cellHoldsNoValue := by
  simp only [Memory.element, hl, hi]

/-- The samples of an image in form are counted by its attributes (R22). -/
theorem length_of_sourceWf {g : Image} (h : g.sourceWf = true) :
    g.data.length = g.w.toNat * g.h.toNat * g.ch.toNat := of_decide_eq_true h

theorem length_of_normalizedWf {g : Image} (h : g.normalizedWf = true) :
    g.data.length = g.w.toNat * g.h.toNat * g.ch.toNat := by
  obtain ⟨-, -, -, length⟩ := of_decide_eq_true h
  exact length

theorem length_of_gridWf {g : Grid} (h : g.wf = true) : g.cells.length = g.w.toNat * g.h.toNat := by
  obtain ⟨-, -, length⟩ := of_decide_eq_true h
  exact length

theorem length_of_qgridWf {g : QGrid} (h : g.wf = true) : g.cells.length = g.w.toNat * g.h.toNat := by
  obtain ⟨-, -, -, length, -⟩ := of_decide_eq_true h
  exact length

theorem length_of_decGridWf {g : DecGrid} (h : g.wf = true) : g.cells.length = g.w.toNat * g.h.toNat := by
  obtain ⟨form, -⟩ := (Bool.and_eq_true _ _).mp h
  obtain ⟨-, -, length⟩ := of_decide_eq_true form
  exact length

/-- A valid plane in canonical form has N_p elements (R60). -/
theorem elements_length {m : Memory} (hm : m.wf = true) {p : Plane} {l : List (Option Byte)}
    (hl : m.elements p = some l) : l.length = elementCount m p := by
  obtain ⟨src, nrm, pix, qnt, -, -, dec⟩ := (memory_wf_iff m).1 hm
  cases p <;> obtain ⟨g, hg, rfl⟩ := Option.map_eq_some_iff.1 hl <;>
    simp only [elementCount, hg, List.length_map, Option.map_some, Option.getD_some]
  case src => exact length_of_sourceWf (src g hg)
  case nrm => exact length_of_normalizedWf (nrm g hg)
  case pix => exact length_of_gridWf (pix g hg)
  case qnt => exact length_of_qgridWf (qnt g hg)
  case dec => exact length_of_decGridWf (dec g hg)

/-- Only DEC has cells without a value (R206). -/
theorem elements_hold_values {m : Memory} {p : Plane} (hp : p ≠ .dec) {l : List (Option Byte)}
    (hl : m.elements p = some l) {c : Option Byte} (hc : c ∈ l) : ∃ v, c = some v := by
  cases p
  case dec => exact absurd rfl hp
  all_goals
    obtain ⟨g, -, rfl⟩ := Option.map_eq_some_iff.1 hl
    obtain ⟨v, -, rfl⟩ := List.mem_map.1 hc
    exact ⟨_, rfl⟩

/-- Settles O17: the list of a plane's elements is N_p long, and only DEC has gaps in it. -/
theorem planeReadIsRefusedOutsideAndAnsweredInside : Obligations.PlaneReadIsRefusedOutsideAndAnsweredInside := by
  rintro s p i rest hs ⟨wf, -⟩
  refine ⟨fun invalid => step_planeRead_error hs (element_of_invalid invalid i), fun valid outside => ?_,
    fun valid inside hp => ?_⟩
  all_goals
    rw [valid_iff_elements] at valid
    obtain ⟨l, hl⟩ := Option.isSome_iff_exists.1 valid
    have count := elements_length wf hl
  · exact step_planeRead_error hs (element_of_length_le hl (by omega))
  · have hi : i < l.length := by omega
    obtain ⟨v, hv⟩ := elements_hold_values hp hl (List.getElem_mem hi)
    exact ⟨v, step_planeRead_ok hs (element_ok_iff.2 ⟨l, hl, by rw [List.getElem?_eq_getElem hi, hv]⟩)⟩

theorem sample_index_lt {w h ch x y c : Nat} (hx : x < w) (hy : y < h) (hc : c < ch) :
    (y * w + x) * ch + c < w * h * ch :=
  (row_index_lt hc (row_index_lt hx hy)).trans_eq (Nat.mul_comm _ _)

theorem getElem?_map_eq_getD {α β : Type} (f : α → β) (d : α) {l : List α} {i : Nat} (hi : i < l.length) :
    (l.map f)[i]? = some (f (l.getD i d)) := by
  simp [hi]

theorem getElem?_samples {g : Image} (hg : g.data.length = g.w.toNat * g.h.toNat * g.ch.toNat) {x y c : Nat}
    (hx : x < g.w.toNat) (hy : y < g.h.toNat) (hc : c < g.ch.toNat) :
    (g.data.map some)[(y * g.w.toNat + x) * g.ch.toNat + c]? = some (some (g.sample x y c)) :=
  getElem?_map_eq_getD some 0 ((sample_index_lt hx hy hc).trans_eq hg.symm)

theorem getElem?_decCells {g : DecGrid} (hg : g.wf = true) {x y : Nat} (hx : x < g.w.toNat) (hy : y < g.h.toNat) :
    g.cells[y * g.w.toNat + x]? = some (g.cell x y) := by
  have inside : y * g.w.toNat + x < g.cells.length := (row_index_lt hx hy).trans_eq (length_of_decGridWf hg).symm
  simp [DecGrid.cell, inside]

/-- Settles O18: an index inside the plane picks its element of the plane's list. -/
theorem planeReadAnswersTheRowMajorElement : Obligations.PlaneReadAnswersTheRowMajorElement := by
  rintro s p i rest hs ⟨wf, -⟩
  obtain ⟨srcWf, nrmWf, pixWf, qntWf, -, -, decWf⟩ := (memory_wf_iff s.mem).1 wf
  have answer {l : List (Option Byte)} {v : Byte} (hl : s.mem.elements p = some l) (hv : l[i]? = some (some v)) :
      step s = .next { s with pending := rest, replies := s.replies ++ [.element v] } :=
    step_planeRead_ok hs (element_ok_iff.2 ⟨l, hl, hv⟩)
  refine ⟨?src, ?nrm, ?pix, ?qnt, ?buf, ?vbuf, ?dec, ?decGap⟩
  case src =>
    rintro g x y c rfl hg hx hy hc rfl
    have elements : s.mem.elements .src = some (g.data.map some) := by simp [Memory.elements, hg]
    exact answer elements (getElem?_samples (length_of_sourceWf (srcWf g hg)) hx hy hc)
  case nrm =>
    rintro g x y c rfl hg hx hy hc rfl
    have elements : s.mem.elements .nrm = some (g.data.map some) := by simp [Memory.elements, hg]
    exact answer elements (getElem?_samples (length_of_normalizedWf (nrmWf g hg)) hx hy hc)
  case pix =>
    rintro g x y rfl hg hx hy rfl
    have elements : s.mem.elements .pix = some (g.cells.map some) := by simp [Memory.elements, hg]
    have inside := (row_index_lt hx hy).trans_eq (length_of_gridWf (pixWf g hg)).symm
    exact answer elements (getElem?_map_eq_getD some 0 inside)
  case qnt =>
    rintro g x y rfl hg hx hy rfl
    have elements : s.mem.elements .qnt = some (g.cells.map fun q => some (q.setWidth 8)) := by
      simp [Memory.elements, hg]
    have inside := (row_index_lt hx hy).trans_eq (length_of_qgridWf (qntWf g hg)).symm
    exact answer elements (getElem?_map_eq_getD (fun q => some (q.setWidth 8)) 0 inside)
  case buf =>
    rintro b rfl hb inside
    have elements : s.mem.elements .buf = some (b.bytes.map some) := by simp [Memory.elements, hb]
    exact answer elements (getElem?_map_eq_getD some 0 inside)
  case vbuf =>
    rintro l rfl hl inside
    have elements : s.mem.elements .vbuf = some (l.map some) := by simp [Memory.elements, hl]
    exact answer elements (getElem?_map_eq_getD some 0 inside)
  case dec =>
    rintro g x y v rfl hg hx hy rfl hv
    have elements : s.mem.elements .dec = some g.cells := by simp [Memory.elements, hg]
    exact answer elements (hv ▸ getElem?_decCells (decWf g hg) hx hy)
  case decGap =>
    rintro g x y rfl hg hx hy rfl gap
    have elements : s.mem.elements .dec = some g.cells := by simp [Memory.elements, hg]
    exact step_planeRead_error hs (element_of_no_value elements (gap ▸ getElem?_decCells (decWf g hg) hx hy))

/-! ### Loads and drops (R68) -/

theorem loadedImage_eq_some {w h ch : Nat} {data : List Nat} {g : Image} :
    loadedImage w h ch data = some g ↔ (w ≤ 65535 ∧ h ≤ 65535 ∧ ch ≤ 255 ∧ ∀ v ∈ data, v ≤ 255) ∧
      g = ⟨BitVec.ofNat 16 w, BitVec.ofNat 16 h, BitVec.ofNat 8 ch, data.map (BitVec.ofNat 8)⟩ := by
  simp only [loadedImage, Option.bind_eq_bind, Option.bind_eq_some_iff, dimOf_eq_some, sampleOf_eq_some,
    samplesOf_eq_some, Option.some.injEq]
  constructor
  · rintro ⟨_, ⟨hw, rfl⟩, _, ⟨hh, rfl⟩, _, ⟨hc, rfl⟩, _, ⟨hd, rfl⟩, rfl⟩
    exact ⟨⟨hw, hh, hc, hd⟩, rfl⟩
  · rintro ⟨⟨hw, hh, hc, hd⟩, rfl⟩
    exact ⟨_, ⟨hw, rfl⟩, _, ⟨hh, rfl⟩, _, ⟨hc, rfl⟩, _, ⟨hd, rfl⟩, rfl⟩

theorem loadedGrid_eq_some {w h : Nat} {data : List Nat} {g : Grid} :
    loadedGrid w h data = some g ↔ (w ≤ 65535 ∧ h ≤ 65535 ∧ ∀ v ∈ data, v ≤ 255) ∧
      g = ⟨BitVec.ofNat 16 w, BitVec.ofNat 16 h, data.map (BitVec.ofNat 8)⟩ := by
  simp only [loadedGrid, Option.bind_eq_bind, Option.bind_eq_some_iff, dimOf_eq_some, samplesOf_eq_some,
    Option.some.injEq]
  constructor
  · rintro ⟨_, ⟨hw, rfl⟩, _, ⟨hh, rfl⟩, _, ⟨hd, rfl⟩, rfl⟩
    exact ⟨⟨hw, hh, hd⟩, rfl⟩
  · rintro ⟨⟨hw, hh, hd⟩, rfl⟩
    exact ⟨_, ⟨hw, rfl⟩, _, ⟨hh, rfl⟩, _, ⟨hd, rfl⟩, rfl⟩

/-- The answer r to a load: memory m if the preconditions P hold, else the refusal of U10. -/
def LoadsWhen (P : Prop) (r : Except Refusal Memory) (m : Memory) : Prop :=
  (P → r = .ok m) ∧ (¬P → r = .error .loadPrecondition)

/-- A load whose numbers make content a exactly when N holds: P says that they do and that a is in form. -/
theorem loadIf_loadsWhen {α : Type} {form : α → Bool} {g : Option α} {put : α → Memory} {N P : Prop} {a : α}
    (numbers : ∀ x, g = some x ↔ N ∧ x = a) (ok : P ↔ N ∧ form a = true) :
    LoadsWhen P (loadIf form g put) (put a) := by
  have filtered {x : α} : g.filter form = some x ↔ P ∧ x = a := by
    rw [Option.filter_eq_some_iff, numbers, ok]
    constructor
    · rintro ⟨⟨hN, rfl⟩, hx⟩
      exact ⟨⟨hN, hx⟩, rfl⟩
    · rintro ⟨⟨hN, hx⟩, rfl⟩
      exact ⟨⟨hN, rfl⟩, hx⟩
  refine ⟨fun hP => ?_, fun hP => ?_⟩
  · rw [loadIf, filtered.2 ⟨hP, rfl⟩]
  · have none : g.filter form = none := Option.eq_none_iff_forall_ne_some.2 fun x hx => hP (filtered.1 hx).1
    rw [loadIf, none]

theorem LoadsWhen.ok_iff {P : Prop} {r : Except Refusal Memory} {m : Memory} (h : LoadsWhen P r m) :
    (∃ m', r = .ok m') ↔ P := by
  refine ⟨fun ⟨m', hm⟩ => ?_, fun hP => ⟨m, h.1 hP⟩⟩
  by_contra hP
  cases hm.symm.trans (h.2 hP)

theorem dim_toNat {v : Nat} (hv : v ≤ 65535) : (BitVec.ofNat 16 v).toNat = v := by
  rw [BitVec.toNat_ofNat]
  omega

theorem byte_toNat {v : Nat} (hv : v ≤ 255) : (BitVec.ofNat 8 v).toNat = v := by
  rw [BitVec.toNat_ofNat]
  omega

theorem byte_eq_iff {v k : Nat} (hv : v ≤ 255) (hk : k ≤ 255) : BitVec.ofNat 8 v = BitVec.ofNat 8 k ↔ v = k := by
  rw [← BitVec.toNat_inj, byte_toNat hv, byte_toNat hk]

theorem load_src (m : Memory) (w h aux : Nat) (data : List Nat) :
    LoadsWhen (w ≤ 65535 ∧ h ≤ 65535 ∧ aux ≤ 255 ∧ data.length = w * h * aux ∧ ∀ v ∈ data, v ≤ 255)
      (m.load .src w h aux data)
      { m with src := some ⟨BitVec.ofNat 16 w, BitVec.ofNat 16 h, BitVec.ofNat 8 aux, data.map (BitVec.ofNat 8)⟩ } := by
  refine loadIf_loadsWhen (put := fun g => { m with src := some g }) (fun _ => loadedImage_eq_some) ?_
  have form_iff (hw : w ≤ 65535) (hh : h ≤ 65535) (hc : aux ≤ 255) :
      Image.sourceWf ⟨BitVec.ofNat 16 w, BitVec.ofNat 16 h, BitVec.ofNat 8 aux, data.map (BitVec.ofNat 8)⟩ = true ↔
        data.length = w * h * aux := by
    simp only [Image.sourceWf, decide_eq_true_eq, dim_toNat hw, dim_toNat hh, byte_toNat hc, List.length_map]
  constructor
  · rintro ⟨hw, hh, hc, length, hd⟩
    exact ⟨⟨hw, hh, hc, hd⟩, (form_iff hw hh hc).2 length⟩
  · rintro ⟨⟨hw, hh, hc, hd⟩, form⟩
    exact ⟨hw, hh, hc, (form_iff hw hh hc).1 form, hd⟩

theorem load_nrm (m : Memory) (w h aux : Nat) (data : List Nat) :
    LoadsWhen (1 ≤ w ∧ w ≤ 65535 ∧ 1 ≤ h ∧ h ≤ 65535 ∧ (aux = 1 ∨ aux = 3) ∧ data.length = w * h * aux ∧
        ∀ v ∈ data, v ≤ 255)
      (m.load .nrm w h aux data)
      { m with nrm := some ⟨BitVec.ofNat 16 w, BitVec.ofNat 16 h, BitVec.ofNat 8 aux, data.map (BitVec.ofNat 8)⟩ } := by
  refine loadIf_loadsWhen (put := fun g => { m with nrm := some g }) (fun _ => loadedImage_eq_some) ?_
  have form_iff (hw : w ≤ 65535) (hh : h ≤ 65535) (hc : aux ≤ 255) :
      Image.normalizedWf ⟨BitVec.ofNat 16 w, BitVec.ofNat 16 h, BitVec.ofNat 8 aux, data.map (BitVec.ofNat 8)⟩ = true ↔
        1 ≤ w ∧ 1 ≤ h ∧ (aux = 1 ∨ aux = 3) ∧ data.length = w * h * aux := by
    simp only [Image.normalizedWf, decide_eq_true_eq, dim_toNat hw, dim_toNat hh, byte_toNat hc, List.length_map,
      byte_eq_iff hc (show 1 ≤ 255 by decide), byte_eq_iff hc (show 3 ≤ 255 by decide)]
  constructor
  · rintro ⟨hw1, hw, hh1, hh, hc, length, hd⟩
    have hc' : aux ≤ 255 := by omega
    exact ⟨⟨hw, hh, hc', hd⟩, (form_iff hw hh hc').2 ⟨hw1, hh1, hc, length⟩⟩
  · rintro ⟨⟨hw, hh, hc', hd⟩, form⟩
    obtain ⟨hw1, hh1, hc, length⟩ := (form_iff hw hh hc').1 form
    exact ⟨hw1, hw, hh1, hh, hc, length, hd⟩

theorem load_pix (m : Memory) (w h aux : Nat) (data : List Nat) :
    LoadsWhen (1 ≤ w ∧ w ≤ 65535 ∧ 1 ≤ h ∧ h ≤ 65535 ∧ data.length = w * h ∧ ∀ v ∈ data, v ≤ 255)
      (m.load .pix w h aux data)
      { m with pix := some ⟨BitVec.ofNat 16 w, BitVec.ofNat 16 h, data.map (BitVec.ofNat 8)⟩ } := by
  refine loadIf_loadsWhen (put := fun g => { m with pix := some g }) (fun _ => loadedGrid_eq_some) ?_
  have form_iff (hw : w ≤ 65535) (hh : h ≤ 65535) :
      Grid.wf ⟨BitVec.ofNat 16 w, BitVec.ofNat 16 h, data.map (BitVec.ofNat 8)⟩ = true ↔
        1 ≤ w ∧ 1 ≤ h ∧ data.length = w * h := by
    simp only [Grid.wf, decide_eq_true_eq, dim_toNat hw, dim_toNat hh, List.length_map]
  constructor
  · rintro ⟨hw1, hw, hh1, hh, length, hd⟩
    exact ⟨⟨hw, hh, hd⟩, (form_iff hw hh).2 ⟨hw1, hh1, length⟩⟩
  · rintro ⟨⟨hw, hh, hd⟩, form⟩
    obtain ⟨hw1, hh1, length⟩ := (form_iff hw hh).1 form
    exact ⟨hw1, hw, hh1, hh, length, hd⟩

theorem load_vbuf (m : Memory) (w h aux : Nat) (data : List Nat) :
    LoadsWhen (data.length ≤ 2 ^ 32 - 1 ∧ ∀ v ∈ data, v ≤ 255) (m.load .vbuf w h aux data)
      { m with vbuf := some (data.map (BitVec.ofNat 8)) } := by
  refine loadIf_loadsWhen (put := fun l => { m with vbuf := some l }) (fun _ => samplesOf_eq_some) ?_
  have form_iff : vbufWf (data.map (BitVec.ofNat 8)) = true ↔ data.length ≤ 2 ^ 32 - 1 := by
    rw [vbufWf, decide_eq_true_eq, List.length_map]
    omega
  rw [form_iff, and_comm]

theorem step_planeLoad_of_loadsWhen {s : State} {rest : List HostMove} {p : Plane} {w h aux : Nat} {data : List Nat}
    {P : Prop} {m : Memory} (hs : s.pending = .planeLoad p w h aux data :: rest)
    (load : LoadsWhen P (s.mem.load p w h aux data) m) :
    (P → step s = .next { s with pending := rest, mem := m }) ∧ (¬P → step s = .refused .loadPrecondition) :=
  ⟨fun hP => step_planeLoad_ok hs (load.1 hP), fun hP => step_planeLoad_error hs (load.2 hP)⟩

/-- Settles O19: each loadable plane takes content in its form and nothing else, and the other moves are refused. -/
theorem planeLoadAndDropObeyTheirPreconditions : Obligations.PlaneLoadAndDropObeyTheirPreconditions := by
  intro s rest w h aux data
  refine ⟨fun hs => step_planeLoad_of_loadsWhen hs (load_src s.mem w h aux data),
    fun hs => step_planeLoad_of_loadsWhen hs (load_nrm s.mem w h aux data),
    fun hs => step_planeLoad_of_loadsWhen hs (load_pix s.mem w h aux data),
    fun hs => step_planeLoad_of_loadsWhen hs (load_vbuf s.mem w h aux data), ?_,
    fun hs => step_planeDrop_ok hs rfl, fun hs => step_planeDrop_ok hs rfl, ?_⟩
  · rintro p (rfl | rfl | rfl) hs <;> exact step_planeLoad_error hs rfl
  · intro p hsrc hvbuf hs
    cases p
    case src => exact absurd rfl hsrc
    case vbuf => exact absurd rfl hvbuf
    all_goals exact step_planeDrop_error hs rfl

/-! ### Availability against well-formedness (R68) -/

theorem load_available_iff (m : Memory) (p : Plane) (w h aux : Nat) (data : List Nat) :
    (∃ m', m.load p w h aux data = .ok m') ↔ (HostMove.planeLoad p w h aux data).wellFormed = true := by
  cases p <;>
    simp only [HostMove.wellFormed, Plane.loadable, Plane.loadArgsOk, Bool.true_and, Bool.false_and, Bool.and_eq_true,
      List.all_eq_true, decide_eq_true_eq]
  case src => rw [(load_src m w h aux data).ok_iff]; tauto
  case nrm => rw [(load_nrm m w h aux data).ok_iff]; tauto
  case pix => rw [(load_pix m w h aux data).ok_iff]; tauto
  case vbuf => rw [(load_vbuf m w h aux data).ok_iff]; exact and_comm
  all_goals simp [Memory.load]

theorem drop_available_iff (m : Memory) (p : Plane) :
    (∃ m', m.drop p = .ok m') ↔ (HostMove.planeDrop p).wellFormed = true := by
  cases p <;> simp [Memory.drop, HostMove.wellFormed, Plane.droppable]

/-- Settles O20: a load or drop goes through exactly when the plane space takes it. -/
theorem loadsAndDropsAreAvailableExactlyWhenWellFormed :
    Obligations.LoadsAndDropsAreAvailableExactlyWhenWellFormed := by
  rintro s rest m hs (⟨p, w, h, aux, data, rfl⟩ | ⟨p, rfl⟩)
  · rw [← load_available_iff s.mem]
    cases hm : s.mem.load p w h aux data with
    | ok m => simp [step_planeLoad_ok hs hm]
    | error r => simp [step_planeLoad_error hs hm]
  · rw [← drop_available_iff s.mem]
    cases hm : s.mem.drop p with
    | ok m => simp [step_planeDrop_ok hs hm]
    | error r => simp [step_planeDrop_error hs hm]

end Sys2Proof.Machine
end

section
/-! SUPPORT. The command words (spec/30_encoding.md R90 to R96): O1, O2, O5. -/

namespace Sys2Proof.Machine

/-! ### The decoder against the table -/

theorem decode_encode (i : Instr) : decode (encode i) = .ok i := by
  cases i <;> rfl

theorem encode_injective : Function.Injective encode := by
  intro i j h
  have same : decode (encode i) = decode (encode j) := congrArg decode h
  rw [decode_encode, decode_encode] at same
  exact Except.ok.inj same

/-- A word is its two fields (R90). -/
theorem toNat_eq_fields (c : CmdWord) : c.toNat = 16 * opField c + argField c := by
  simp only [opField, argField, BitVec.extractLsb'_toNat, Nat.shiftRight_eq_div_pow]
  omega

theorem word_eq_of_fields {c c' : CmdWord} (op : opField c = opField c') (arg : argField c = argField c') : c = c' :=
  BitVec.eq_of_toNat_eq (by rw [toNat_eq_fields, toNat_eq_fields c', op, arg])

theorem decodePlain_eq_ok {i j : Instr} {arg : Nat} (h : decodePlain i arg = .ok j) : arg = 0 ∧ j = i := by
  unfold decodePlain at h
  split_ifs at h with zero
  exact ⟨zero, by cases h; rfl⟩

/-- A word that decodes to i has the fields of i's word (R93). -/
theorem fields_of_decode {c : CmdWord} {i : Instr} (h : decode c = .ok i) :
    opField c = opField (encode i) ∧ argField c = argField (encode i) := by
  unfold decode at h
  split at h
  -- the groups 1, 2, 3, 7 and 8, which take no ARG
  case h_4 op | h_5 op | h_6 op | h_17 op | h_18 op =>
    obtain ⟨arg, rfl⟩ := decodePlain_eq_ok h
    exact ⟨op, arg⟩
  all_goals cases h
  all_goals
    rename_i op arg
    exact ⟨op, arg⟩

theorem decode_eq_ok_iff (c : CmdWord) (i : Instr) : decode c = .ok i ↔ c = encode i := by
  refine ⟨fun h => ?_, ?_⟩
  · obtain ⟨op, arg⟩ := fields_of_decode h
    exact word_eq_of_fields op arg
  · rintro rfl
    exact decode_encode i

/-- Settles O1: the decoder reads OP and ARG, which together are the word. -/
theorem wordDecodesExactlyToItsCommand : Obligations.WordDecodesExactlyToItsCommand :=
  fun c i _ => decode_eq_ok_iff c i

/-- Settles O2: the words of the table are the encoder's. -/
theorem tableWordsDecodeAsWritten : Obligations.TableWordsDecodeAsWritten :=
  ⟨decode_encode .nop, decode_encode .clear, decode_encode .normalize, decode_encode .toGray, decode_encode .adjust,
    decode_encode .quantThresh, decode_encode .quantUniform, decode_encode .quantDither, decode_encode .pack1,
    decode_encode .pack2, decode_encode .unpack1, decode_encode .unpack2, decode_encode .detect, decode_encode .convert⟩

/-! ### Counting the illegal words -/

/-- The rows of R92's table. -/
def tableCommands : List Instr :=
  [.nop, .clear, .normalize, .toGray, .adjust, .quantThresh, .quantUniform, .quantDither, .pack1, .pack2, .unpack1,
    .unpack2, .detect, .convert]

theorem mem_tableCommands (i : Instr) : i ∈ tableCommands := by
  cases i <;> decide

/-- The number c is a word that decodes to no command. -/
def illegalNumber (c : Nat) : Bool := (decode (BitVec.ofNat 8 c)).toOption.isNone

theorem not_illegalNumber_iff {c : Nat} (hc : c < 256) :
    (!illegalNumber c) = true ↔ ∃ i, c = (encode i).toNat := by
  have word (i : Instr) : decode (BitVec.ofNat 8 c) = .ok i ↔ c = (encode i).toNat := by
    rw [decode_eq_ok_iff, ← BitVec.toNat_inj, BitVec.toNat_ofNat, Nat.mod_eq_of_lt hc]
  simp only [← word, illegalNumber]
  cases decode (BitVec.ofNat 8 c) <;> simp [Except.toOption]

/-- The legal words are the fourteen of the table, each once. -/
theorem legalNumbers_perm :
    ((List.range 256).filter fun c => !illegalNumber c).Perm (tableCommands.map fun i => (encode i).toNat) := by
  have injective : Function.Injective fun i => (encode i).toNat := fun i j h =>
    encode_injective (BitVec.eq_of_toNat_eq h)
  have nodup : tableCommands.Nodup := by decide
  refine (List.perm_ext_iff_of_nodup (List.nodup_range.filter _) (nodup.map injective)).2 fun c => ?_
  rw [List.mem_filter, List.mem_range, List.mem_map]
  constructor
  · rintro ⟨hc, legal⟩
    obtain ⟨i, rfl⟩ := (not_illegalNumber_iff hc).1 legal
    exact ⟨i, mem_tableCommands i, rfl⟩
  · rintro ⟨i, -, rfl⟩
    have hi : (encode i).toNat < 256 := (encode i).isLt
    exact ⟨hi, (not_illegalNumber_iff hi).2 ⟨i, rfl⟩⟩

/-- Settles O5: of the 256 words the fourteen legal ones are taken away, and none of them lies in a listed range. -/
theorem twoHundredFortyTwoWordsAreIllegal : Obligations.TwoHundredFortyTwoWordsAreIllegal := by
  refine ⟨?_, fun c hc i hi => ?_⟩
  · have legal : ((List.range 256).filter fun c => !illegalNumber c).length = 14 := legalNumbers_perm.length_eq
    have split := (List.range 256).length_eq_length_filter_add illegalNumber
    rw [legal, List.length_range] at split
    change ((List.range 256).filter illegalNumber).length = 242
    omega
  · rw [decode_eq_ok_iff] at hi
    subst hi
    cases i <;> simp [encode] at hc

end Sys2Proof.Machine
end

section
/-! SUPPORT. The pseudo-commands (spec/30_encoding.md R99) against what they stand for: O53, O57. -/

namespace Sys2Proof.Machine

open Sys2Proof.Claims

/-! ### COPYBUF -/

theorem reaches_trans {m k : Nat} {s u t : State} (h : Reaches m s u) (h' : Reaches k u t) : Reaches (m + k) s t := by
  induction m generalizing s with
  | zero =>
    cases h
    rwa [Nat.zero_add]
  | succ m ih =>
    obtain ⟨v, next, run⟩ := h
    rw [Nat.succ_add]
    exact ⟨v, next, ih run⟩

/-- Reads of elements that all hold a value run one step each and tell HOST the values in order (R67). -/
theorem reaches_planeReads {p : Plane} {rest : List HostMove} {indices : List Nat} {values : List Byte} {s : State}
    (elements : List.Forall₂ (fun i v => s.mem.element p i = .ok v) indices values)
    (hs : s.pending = indices.map (HostMove.planeRead p) ++ rest) :
    Reaches indices.length s
      { s with pending := rest, replies := s.replies ++ values.map HostReply.element } := by
  induction indices generalizing s values with
  | nil =>
    cases elements
    simp only [List.map_nil, List.nil_append] at hs
    simp only [List.length_nil, Reaches, ← hs, List.map_nil, List.append_nil]
  | cons i indices ih =>
    cases elements with
    | @cons _ v _ values first others =>
      refine ⟨_, step_planeRead_ok hs first, ?_⟩
      have told : s.replies ++ (v :: values).map HostReply.element =
          s.replies ++ [.element v] ++ values.map HostReply.element := by simp
      rw [told]
      exact ih others rfl

theorem bufElements_forall₂ {m : Memory} {b : PackedBuf} (hb : m.buf = some b) :
    List.Forall₂ (fun i v => m.element .buf i = .ok v) (List.range b.bytes.length) b.bytes := by
  refine List.forall₂_iff_get.2 ⟨List.length_range, fun i _ hi => ?_⟩
  have elements : m.elements .buf = some (b.bytes.map some) := by simp [Memory.elements, hb]
  exact element_ok_iff.2 ⟨_, elements, by simp [hi]⟩

/-- A packed buffer fits into VBUF (R27, R28): at most 16384 bytes in each of at most 65535 rows. -/
theorem packedBuf_length_le {b : PackedBuf} (hb : b.wf = true) : b.bytes.length ≤ 2 ^ 32 - 1 := by
  simp only [PackedBuf.wf, Bool.and_eq_true, decide_eq_true_eq] at hb
  obtain ⟨⟨-, -, bpp, length⟩, -⟩ := hb
  have hw := b.w.isLt
  have hh := b.h.isLt
  have row : rowBytes b.bpp.toNat b.w.toNat ≤ 16384 := by
    obtain bpp | bpp := bpp <;> rw [bpp]
    · exact (rowBytes_one _).trans_le (by omega)
    · exact (rowBytes_two _).trans_le (by omega)
  calc b.bytes.length = rowBytes b.bpp.toNat b.w.toNat * b.h.toNat := length
    _ ≤ 16384 * 65535 := Nat.mul_le_mul row (by omega)
    _ ≤ 2 ^ 32 - 1 := by decide

/-- Bytes that HOST has read can be loaded into VBUF as they are (R68). -/
theorem load_vbuf_bytes (m : Memory) {l : List Byte} (hl : l.length ≤ 2 ^ 32 - 1) :
    m.load .vbuf 0 0 0 (l.map BitVec.toNat) = .ok { m with vbuf := some l } := by
  have samples : ∀ v ∈ l.map BitVec.toNat, v ≤ 255 := by
    intro v hv
    obtain ⟨a, -, rfl⟩ := List.mem_map.1 hv
    have := a.isLt
    omega
  have stored : (l.map BitVec.toNat).map (BitVec.ofNat 8) = l := by simp [Function.comp_def]
  rw [(load_vbuf m 0 0 0 (l.map BitVec.toNat)).1 ⟨by rwa [List.length_map], samples⟩, stored]

/-- Settles O53: every byte of BUF is read, and the bytes read are a load VBUF takes. -/
theorem copyBufMovesTheBytesOfBufToVbuf : Obligations.CopyBufMovesTheBytesOfBufToVbuf := by
  rintro s b moves rest ⟨wf, -⟩ hb hmoves hs
  obtain ⟨-, -, -, -, bufWf, -, -⟩ := (memory_wf_iff s.mem).1 wf
  have expansion : copyBufMoves s = some ((List.range b.bytes.length).map (HostMove.planeRead .buf) ++
      [.planeLoad .vbuf 0 0 0 (b.bytes.map BitVec.toNat)]) := by
    rw [copyBufMoves, hb]
    rfl
  cases expansion.symm.trans hmoves
  rw [List.append_assoc] at hs
  have reads := reaches_planeReads (bufElements_forall₂ hb) hs
  rw [List.length_range] at reads
  have load := load_vbuf_bytes s.mem (packedBuf_length_le (bufWf b hb))
  exact reaches_trans reads ⟨_, step_planeLoad_ok rfl load, rfl⟩

/-! ### A clean run is a run of the bodies -/

/-- The bodies of the commands of a list, each on what the one before made, up to the first error. -/
def runBodies (l : List Instr) (s : State) : Except Err State := l.foldlM (fun s i => commandBody i s) s

theorem runBodies_cons (i : Instr) (l : List Instr) (s : State) :
    runBodies (i :: l) s = commandBody i s >>= runBodies l := List.foldlM_cons

/-- A command other than NOP ends with ERR 0 exactly when its body completes (R39). -/
theorem exec_clean_iff {i : Instr} (hi : i ≠ .nop) (s u : State) :
    (exec i s = .next u ∧ u.err = .ok) ↔ ∃ v, commandBody i s = .ok v ∧ u = v.withErr .ok := by
  rw [exec_eq_finish hi]
  constructor
  · rintro ⟨next, clean⟩
    obtain completed | ⟨e, raised, rfl⟩ := finish_cases next
    · exact completed
    · exact absurd clean (commandBody_raisesErrors i s e raised)
  · rintro ⟨v, completed, rfl⟩
    rw [completed]
    exact ⟨rfl, rfl⟩

/-- Clean commands after a command that ended with ERR 0. -/
theorem runsClean_withErr_iff {l : List Instr} (hl : .nop ∉ l) (s t : State) :
    RunsClean l (s.withErr .ok) t ↔ ∃ u, runBodies l s = .ok u ∧ t = u.withErr .ok := by
  induction l generalizing s with
  | nil => exact ⟨fun h => ⟨s, rfl, h⟩, fun ⟨u, run, h⟩ => by cases run; exact h⟩
  | cons i l ih =>
    obtain ⟨hi, hl⟩ := not_or.1 (mt List.mem_cons.2 hl)
    have same : exec i (s.withErr .ok) = exec i s := errIsOverwrittenByEveryCommandButNop i s .ok (Ne.symm hi)
    rw [RunsClean, runBodies_cons, same]
    simp only [← and_assoc, exec_clean_iff (Ne.symm hi)]
    constructor
    · rintro ⟨-, ⟨v, completed, rfl⟩, run⟩
      rw [completed]
      exact (ih hl v).1 run
    · rintro ⟨u, run, rfl⟩
      obtain ⟨v, completed, run⟩ := bind_ok run
      exact ⟨_, ⟨v, completed, rfl⟩, (ih hl v).2 ⟨u, run, rfl⟩⟩

/-- What ERR held before the first command makes no difference (R39). -/
theorem runsClean_iff {l : List Instr} (hl : .nop ∉ l) (nonempty : l ≠ []) (s t : State) :
    RunsClean l s t ↔ ∃ u, runBodies l s = .ok u ∧ t = u.withErr .ok := by
  rw [← runsClean_withErr_iff hl]
  cases l with
  | nil => exact absurd rfl nonempty
  | cons i l =>
    have hi : i ≠ .nop := fun h => hl (h ▸ List.mem_cons_self)
    have same : exec i (s.withErr .ok) = exec i s := errIsOverwrittenByEveryCommandButNop i s .ok hi
    rw [RunsClean, RunsClean, same]

/-! ### CONVERT -/

theorem stagedCommands_eq_some {s : State} {l : List Instr} (h : stagedCommands s = some l) :
    (s.levelCount = 2 ∧ s.ditherOn = true ∧ l = [.normalize, .toGray, .adjust, .quantDither, .pack1]) ∨
    (s.levelCount = 2 ∧ s.ditherOn = false ∧ l = [.normalize, .toGray, .quantThresh, .pack1]) ∨
    (s.levelCount = 4 ∧ l = [.normalize, .toGray, .quantUniform, .pack2]) := by
  unfold stagedCommands at h
  split_ifs at h with two dither four <;> cases h
  · exact .inl ⟨two, dither, rfl⟩
  · exact .inr (.inl ⟨two, by simpa using dither, rfl⟩)
  · exact .inr (.inr ⟨four, rfl⟩)

/-- The bodies after TOGRAY in the mode that LEVELS and DITHER choose (R238). -/
theorem stagedCommands_tail {s : State} {l : List Instr} (h : stagedCommands s = some l) :
    ∃ tail, l = .normalize :: .toGray :: tail ∧ .nop ∉ tail ∧ (s.levelCount = 2 ∨ s.levelCount = 4) ∧
      ∀ v : State, v.cfg = s.cfg → convertTail v = runBodies tail v := by
  have count {v : State} (cfg : v.cfg = s.cfg) : v.levelCount = s.levelCount := by simp only [State.levelCount, cfg]
  have dithers {v : State} (cfg : v.cfg = s.cfg) : v.ditherOn = s.ditherOn := by simp only [State.ditherOn, cfg]
  obtain ⟨two, dither, rfl⟩ | ⟨two, dither, rfl⟩ | ⟨four, rfl⟩ := stagedCommands_eq_some h
  · refine ⟨[.adjust, .quantDither, .pack1], rfl, by decide, .inl two, fun v cfg => ?_⟩
    rw [convertTail, count cfg, dithers cfg, two, dither]
    simp [runBodies, commandBody]
  · refine ⟨[.quantThresh, .pack1], rfl, by decide, .inl two, fun v cfg => ?_⟩
    rw [convertTail, count cfg, dithers cfg, two, dither]
    simp [runBodies, commandBody]
  · refine ⟨[.quantUniform, .pack2], rfl, by decide, .inr four, fun v cfg => ?_⟩
    rw [convertTail, count cfg, four]
    simp [runBodies, commandBody]

theorem bind_congr_of_ok {r : Except Err State} {f g : State → Except Err State} (h : ∀ u, r = .ok u → f u = g u) :
    r >>= f = r >>= g := by
  cases r with
  | ok u => exact h u rfl
  | error e => rfl

/-- CONVERT's stages are the bodies of the staged commands (R99, R235): no stage changes the registers the mode is chosen
from. -/
theorem convertStages_eq_runBodies {s : State} {l : List Instr} (h : stagedCommands s = some l) :
    convertStages s = runBodies l s := by
  obtain ⟨tail, rfl, -, count, mode⟩ := stagedCommands_tail h
  rw [convertStages, if_neg (not_not.2 count), runBodies_cons]
  refine bind_congr_of_ok fun u normalized => ?_
  rw [runBodies_cons]
  refine bind_congr_of_ok fun v grayed => ?_
  obtain ⟨cfgU, -⟩ := normalizeBody_confined.keeps normalized
  obtain ⟨cfgV, -⟩ := toGrayBody_confined.keeps grayed
  exact mode v (cfgV.trans cfgU)

/-- Settles O57: the staged commands run clean exactly when CONVERT's stages complete, and CONVERT then drops the
intermediates. -/
theorem convertEqualsTheStagedCommands : Obligations.ConvertEqualsTheStagedCommands := by
  intro s l hl
  obtain ⟨tail, rfl, noNop, -⟩ := stagedCommands_tail hl
  have clean := runsClean_iff (l := .normalize :: .toGray :: tail) (by simp [noNop]) (List.cons_ne_nil _ _) s
  rw [← convertStages_eq_runBodies hl] at clean
  refine ⟨fun t run => ?_, fun u next err => ?_⟩
  · obtain ⟨u, stages, rfl⟩ := (clean t).1 run
    have completed : commandBody .convert s = .ok (u.withMem u.mem.withoutIntermediates) := by
      rw [commandBody, convertBody, stages]
      rfl
    rw [exec_eq_finish (by decide), completed]
    rfl
  · obtain ⟨v, completed, -⟩ := (exec_clean_iff (by decide) s u).1 ⟨next, err⟩
    obtain ⟨w, stages, -⟩ := convertBody_ok completed
    exact ⟨_, (clean _).2 ⟨w, stages, rfl⟩⟩

end Sys2Proof.Machine
end

section
/-! SUPPORT and the statements about NORMALIZE (spec/40_normalize.md R110 to R117): the size of the resized image,
the crop window inside it, and the channels RESAMPLE keeps. -/

namespace Sys2Proof.Machine

open Sys2Proof.Claims

/-! ### The size of the resized image (R113, R114) -/

/-- Which axis sets the scale, compared in whole numbers (R113). -/
theorem coverScale_of_le {ow oh tw th : Nat} (how : 1 ≤ ow) (hoh : 1 ≤ oh) (h : th * ow ≤ tw * oh) :
    coverScale ow oh tw th = (tw : Rat) / ow := by
  have how' : (0 : Rat) < ow := by exact_mod_cast how
  have hoh' : (0 : Rat) < oh := by exact_mod_cast hoh
  exact max_eq_left ((div_le_div_iff₀ hoh' how').2 (by exact_mod_cast h))

theorem coverScale_swap (ow oh tw th : Nat) : coverScale ow oh tw th = coverScale oh ow th tw := max_comm _ _

/-- Round-half-up of o · t/q, in whole numbers (R114). -/
theorem scaledSide_div (o t : Nat) {q : Nat} (hq : 1 ≤ q) :
    scaledSide o ((t : Rat) / q) = (2 * o * t + q) / (2 * q) := by
  have product : (o : Rat) * (t / q) = (o * t : Nat) / q := by push_cast; ring
  rw [scaledSide, product, roundHu_div _ _ hq, Int.toNat_natCast, Nat.mul_assoc]

/-- The side that sets the scale is scaled to the target itself. -/
theorem scaledSide_div_self {o : Nat} (t : Nat) (ho : 1 ≤ o) : scaledSide o ((t : Rat) / o) = t := by
  have ho' : (o : Rat) ≠ 0 := by exact_mod_cast (by omega : o ≠ 0)
  rw [scaledSide, mul_div_cancel₀ _ ho', ← Int.cast_natCast, roundHu_intCast, Int.toNat_natCast]

/-- The whole-number size of R113 and R114 is the size the rationals give. -/
theorem resizedSize_eq {ow oh : Nat} (tw th : Nat) (how : 1 ≤ ow) (hoh : 1 ≤ oh) :
    resizedSize ow oh tw th =
      (scaledSide ow (coverScale ow oh tw th), scaledSide oh (coverScale ow oh tw th)) := by
  unfold resizedSize
  split_ifs with h
  · rw [coverScale_of_le how hoh h, scaledSide_div_self tw how, scaledSide_div oh tw how]
  · rw [coverScale_swap, coverScale_of_le hoh how (by omega), scaledSide_div_self th hoh, scaledSide_div ow th hoh]

/-! ### The scaled image covers the target (R117) -/

/-- Rounding never takes a side below a target that the exact product reaches. -/
theorem le_scaledSide {o t : Nat} {scale : Rat} (ho : 1 ≤ o) (h : (t : Rat) / o ≤ scale) : t ≤ scaledSide o scale := by
  have ho' : (0 : Rat) < o := by exact_mod_cast ho
  have reached : (t : Rat) ≤ o * scale := (div_le_iff₀' ho').1 h
  have rounded : (t : Int) ≤ roundHu (o * scale) := (roundHu_le_iff _ _).2 (by push_cast; linarith)
  rw [scaledSide]
  omega

@[simp] theorem cropOffset_self (t : Nat) : cropOffset t t = 0 := by simp [cropOffset_eq]

theorem cropOffset_add_lt {scaled target x : Nat} (h : target ≤ scaled) (hx : x < target) :
    cropOffset scaled target + x < scaled := by
  rw [cropOffset_eq]
  omega

/-- Settles O30: each axis's own scale is at most the cover scale, and one of them is the cover scale. -/
theorem scaledImageAlwaysCoversTheTarget : Obligations.ScaledImageAlwaysCoversTheTarget := by
  rintro ow oh tw th _ _ how hoh - - rfl rfl
  have coversW : tw ≤ scaledSide ow (coverScale ow oh tw th) := le_scaledSide how (le_max_left _ _)
  have coversH : th ≤ scaledSide oh (coverScale ow oh tw th) := le_scaledSide hoh (le_max_right _ _)
  have attained : scaledSide ow (coverScale ow oh tw th) = tw ∨ scaledSide oh (coverScale ow oh tw th) = th :=
    (max_choice ((tw : Rat) / ow) ((th : Rat) / oh)).imp
      (fun e => by rw [coverScale, e, scaledSide_div_self tw how])
      (fun e => by rw [coverScale, e, scaledSide_div_self th hoh])
  exact ⟨coversW, coversH, attained,
    attained.imp (fun e => by rw [e, cropOffset_self]) (fun e => by rw [e, cropOffset_self]),
    fun _ => cropOffset_add_lt coversW, fun _ => cropOffset_add_lt coversH⟩

/-! ### NORMALIZE on a usable source (R110) -/

theorem dim_toNat_ne_zero {v : Dim} (h : v ≠ 0#16) : v.toNat ≠ 0 := BitVec.toNat_ne_iff_ne.2 h

theorem exec_normalize_of_usable {s : State} {g : Image} (hw : s.cfg.tw ≠ 0#16) (hh : s.cfg.th ≠ 0#16)
    (hs : s.mem.src = some g) (usable : UsableSource g) :
    exec .normalize s =
      .next { s with mem := { s.mem with nrm := some (g.coverFit s.cfg.tw s.cfg.th) }, err := .ok } := by
  obtain ⟨gw, gh, gch⟩ := usable
  rw [exec_eq_finish (by decide), commandBody,
    normalizeBody_complete (dim_toNat_ne_zero hw) (dim_toNat_ne_zero hh) hs gw gh gch]
  rfl

/-- Settles O29: NRM is the cover fit of the source, sample by sample, at the whole-number size. -/
theorem normalizeGivesTheCentreCropOfTheCoverFit : Obligations.NormalizeGivesTheCentreCropOfTheCoverFit := by
  intro s g hw hh hs usable
  have ⟨gw, gh, gch⟩ := usable
  have wf : (g.coverFit s.cfg.tw s.cfg.th).normalizedWf = true :=
    coverFit_wf (dim_toNat_ne_zero hw) (dim_toNat_ne_zero hh) gch
  refine ⟨g.coverFit s.cfg.tw s.cfg.th, exec_normalize_of_usable hw hh hs usable, coverFit_w _ _ _, coverFit_h _ _ _,
    coverFit_ch _ _ _, length_of_normalizedWf wf, fun x y c sw sh hx hy hc size => ?_⟩
  rw [resizedSize_eq _ _ (Nat.one_le_iff_ne_zero.2 gw) (Nat.one_le_iff_ne_zero.2 gh)] at size
  obtain ⟨rfl, rfl⟩ := Prod.mk.inj size
  simp only [coverFit_sample g _ _ hx hy hc, cropOffset_eq]

/-! ### Constant channels (R116, P4) -/

/-- Sample number i belongs to channel i mod ch of pixel i div ch (R61). -/
theorem data_getD_eq_sample (g : Image) (i : Nat) :
    g.data.getD i 0 = g.sample (i / g.ch.toNat % g.w.toNat) (i / g.ch.toNat / g.w.toNat) (i % g.ch.toNat) := by
  rw [Image.sample, Nat.div_add_mod', Nat.div_add_mod']

/-- A channel whose samples are all v is found constant: in canonical form the scan of the data meets no other sample. -/
theorem constantChannel_of_forall_sample {g : Image} {c : Nat} {v : Byte} (wf : g.sourceWf = true)
    (usable : UsableSource g) (hv : ∀ x y, x < g.w.toNat → y < g.h.toNat → g.sample x y c = v) :
    g.constantChannel c = some v := by
  obtain ⟨gw, gh, -⟩ := usable
  have wpos := Nat.pos_of_ne_zero gw
  have atOrigin : g.data.getD c 0 = v := by
    simpa [Image.sample] using hv 0 0 wpos (Nat.pos_of_ne_zero gh)
  have every : ∀ i (hi : i < g.data.length), i % g.ch.toNat = c → g.data[i] = v := by
    intro i hi channel
    rw [length_of_sourceWf wf] at hi
    have row : i / g.ch.toNat / g.w.toNat < g.h.toNat :=
      Nat.div_lt_of_lt_mul (Nat.div_lt_of_lt_mul (by rwa [Nat.mul_comm] at hi))
    rw [← hv _ _ (Nat.mod_lt _ wpos) row, ← channel, ← data_getD_eq_sample, List.getD_eq_getElem]
  have scan : g.data.zipIdx.all (fun e => e.2 % g.ch.toNat != c || e.1 == v) = true := by
    rw [List.all_eq_true]
    rintro ⟨b, i⟩ hb
    obtain ⟨hi, hb⟩ := List.mem_zipIdx' hb
    by_cases channel : i % g.ch.toNat = c
    · simp [hb, every i hi channel]
    · simp [channel]
  simp only [Image.constantChannel, atOrigin, scan, if_true]

theorem constants_getD (g : Image) {c : Nat} (hc : c < g.ch.toNat) : g.constants.getD c none = g.constantChannel c := by
  simp [Image.constants, List.getD_eq_getElem?_getD, hc]

/-- P4: RESAMPLE keeps a constant channel, at every size and place. -/
theorem resample_of_constantChannel {g : Image} {c : Nat} {v : Byte} (hc : c < g.ch.toNat)
    (constant : g.constantChannel c = some v) (sw sh x y : Nat) : g.resample g.constants sw sh x y c = v := by
  rw [Image.resample, constants_getD g hc, constant]

/-- Settles O31: the channel is found constant, so every sample of NRM's window keeps its value. -/
theorem constantChannelStaysConstantThroughNormalize : Obligations.ConstantChannelStaysConstantThroughNormalize := by
  intro s g c v inv hw hh hs usable hc hv
  refine ⟨_, _, exec_normalize_of_usable hw hh hs usable, rfl, fun x y hx hy => ?_⟩
  obtain ⟨memWf, -⟩ := inv
  obtain ⟨srcWf, -⟩ := (memory_wf_iff _).1 memWf
  have constant : g.constantChannel c = some v := constantChannel_of_forall_sample (srcWf g hs) usable hv
  rw [coverFit_sample g _ _ hx hy hc]
  exact resample_of_constantChannel hc constant _ _ _ _

end Sys2Proof.Machine
end

section
/-! SUPPORT and the statements about TOGRAY and ADJUST (spec/41_tone.md R130 to R141): grids that keep or fill their
cells, LUMA on the grays, the two tone steps as exact rationals and at their corner factors. -/

namespace Sys2Proof.Machine

open Sys2Proof.Claims

/-! ### Whole grids -/

/-- A grid made of the elements of l, read in row-major order, is l (R61). -/
theorem gridOf_getD_eq_self {α : Type} {w h : Nat} {l : List α} (d : α) (hl : l.length = w * h) :
    gridOf w h (fun x y => l.getD (y * w + x) d) = l := by
  refine List.ext_getElem (by simp [hl]) fun i _ hi => ?_
  simp [gridOf, Nat.div_add_mod', hi]

theorem gridOf_const {α : Type} (w h : Nat) (a : α) : gridOf w h (fun _ _ => a) = List.replicate (w * h) a := by
  simp [gridOf]

/-! ### TOGRAY (R130, R131) -/

theorem exec_toGray_of_valid {s : State} {n : Image} (hn : s.mem.nrm = some n) :
    exec .toGray s = .next { s with mem := { s.mem with pix := some (n.toGrayWith luma) }, err := .ok } := by
  rw [exec_eq_finish (by decide), commandBody, toGrayBody_complete hn]
  rfl

/-- In a one-channel image sample (x, y, 0) is element y·w + x of the data (R61). -/
theorem sample_of_oneChannel {n : Image} (hc : n.ch = 1#8) (x y : Nat) :
    n.sample x y 0 = n.data.getD (y * n.w.toNat + x) 0 := by
  simp [Image.sample, hc]

theorem toGrayWith_of_oneChannel (lum : Byte → Byte → Byte → Byte) {n : Image} (hc : n.ch = 1#8)
    (wf : n.normalizedWf = true) : n.toGrayWith lum = { w := n.w, h := n.h, cells := n.data } := by
  have length : n.data.length = n.w.toNat * n.h.toNat := by simpa [hc] using length_of_normalizedWf wf
  simp only [Image.toGrayWith, if_pos hc, sample_of_oneChannel hc, gridOf_getD_eq_self 0 length]

@[simp] theorem toGrayWith_w (lum : Byte → Byte → Byte → Byte) (n : Image) : (n.toGrayWith lum).w = n.w := rfl
@[simp] theorem toGrayWith_h (lum : Byte → Byte → Byte → Byte) (n : Image) : (n.toGrayWith lum).h = n.h := rfl
@[simp] theorem toGrayWith_length (lum : Byte → Byte → Byte → Byte) (n : Image) :
    (n.toGrayWith lum).cells.length = n.w.toNat * n.h.toNat := by
  simp only [Image.toGrayWith]
  split_ifs <;> exact gridOf_length _ _ _

/-- Settles O33: the samples of a one-channel NRM in canonical form are the cells of PIX. -/
theorem toGrayCopiesAOneChannelImage : Obligations.ToGrayCopiesAOneChannelImage := by
  rintro s n ⟨memWf, -⟩ hn hc
  obtain ⟨-, nrmWf, -⟩ := (memory_wf_iff _).1 memWf
  rw [exec_toGray_of_valid hn, toGrayWith_of_oneChannel luma hc (nrmWf n hn)]

/-! ### LUMA (R132, R133) -/

/-- The weights sum to 65536, so the formula stays below 256. -/
theorem lumaBt601_toNat (r g b : Byte) :
    (lumaBt601 r g b).toNat = (19595 * r.toNat + 38470 * g.toNat + 7471 * b.toNat + 32768) / 65536 := by
  rw [lumaBt601, BitVec.toNat_ofNat]
  omega

theorem lumaBt601_gray (v : Byte) : lumaBt601 v v v = v := by
  refine BitVec.eq_of_toNat_eq ?_
  rw [lumaBt601_toNat]
  omega

theorem lumaOther_gray (v : Byte) : lumaOther v v v = v := if_pos ⟨rfl, rfl⟩

/-- L3 of R132, whichever LUMA the machine has. -/
theorem luma_gray (v : Byte) : luma v v v = v := by
  unfold luma
  split
  · exact lumaBt601_gray v
  · exact lumaOther_gray v

/-- Settles O34: a cell is LUMA of its pixel, and either LUMA keeps the grays. -/
theorem toGrayReducesEachColourPixelByLuma : Obligations.ToGrayReducesEachColourPixelByLuma := by
  intro s n hn hc
  have colour : n.ch ≠ 1#8 := by rw [hc]; decide
  refine ⟨n.toGrayWith luma, exec_toGray_of_valid hn, toGrayWith_w _ _, toGrayWith_h _ _, toGrayWith_length _ _,
    fun x y hx hy => ?_⟩
  rw [toGrayWith_cell_colour luma colour hx hy]
  refine ⟨rfl, fun v h0 h1 h2 => ?_⟩
  rw [h0, h1, h2, luma_gray]

/-- Settles O35: the value of the formula, on grays too; the third clause is the definition of `luma`. -/
theorem defaultLumaIsTheFixedPointFormula : Obligations.DefaultLumaIsTheFixedPointFormula :=
  ⟨lumaBt601_toNat, lumaBt601_gray, fun _ _ _ => rfl⟩

/-! ### The two tone steps (R136 to R139) -/

theorem clamp_byte_eq (v : Int) : clamp v 0 255 = max 0 (min 255 v) := by
  unfold clamp
  split_ifs <;> omega

/-- v >> 8 is the exact quotient, rounded down (R10). -/
theorem shiftRight8_eq_floor (v : Int) : shiftRight8 v = ((v : Rat) / 256).floor :=
  (Rat.floor_intCast_div_natCast v 256).symm

/-- Contrast is the exact value of R137, rounded down and clamped. -/
theorem contrastStep_eq (c : Factor) (v : Byte) :
    contrastStep c v = max 0 (min 255 (128 + ((v.toNat : Rat) - 128) * factorValue c).floor) := by
  have quotient : (128 + ((v.toNat : Rat) - 128) * factorValue c) =
      ((128 * 256 + ((v.toNat : Int) - 128) * c.toNat : Int) : Rat) / 256 := by
    rw [factorValue]; push_cast; ring
  have offset (k : Int) : 128 + shiftRight8 k = shiftRight8 (128 * 256 + k) := by
    unfold shiftRight8; omega
  rw [contrastStep, clamp_byte_eq, quotient, ← shiftRight8_eq_floor, offset]

/-- Brightness is the exact value of R138, rounded down and clamped. -/
theorem brightnessStep_eq (b : Factor) (u : Int) :
    brightnessStep b u = max 0 (min 255 ((u : Rat) * factorValue b).floor) := by
  have quotient : (u : Rat) * factorValue b = ((u * b.toNat : Int) : Rat) / 256 := by
    rw [factorValue]; push_cast; ring
  rw [brightnessStep, clamp_byte_eq, quotient, ← shiftRight8_eq_floor]

theorem contrastStep_bounds (c : Factor) (v : Byte) : 0 ≤ contrastStep c v ∧ contrastStep c v ≤ 255 :=
  clamp_bounds _ _ _ (by decide)

/-- The result of both steps is a byte. -/
theorem toneSample_toNat (c b : Factor) (v : Byte) :
    ((toneSample c b v).toNat : Int) = brightnessStep b (contrastStep c v) := by
  obtain ⟨low, high⟩ : 0 ≤ brightnessStep b (contrastStep c v) ∧ brightnessStep b (contrastStep c v) ≤ 255 :=
    clamp_bounds _ _ _ (by decide)
  exact toByte_toNat _ low high

/-! ### ADJUST (R136) -/

theorem exec_adjust_of_valid {s : State} {g : Grid} (hg : s.mem.pix = some g) :
    exec .adjust s =
      .next { s with mem := { s.mem with pix := some (g.adjusted s.cfg.contrast s.cfg.bright) }, err := .ok } := by
  rw [exec_eq_finish (by decide), commandBody, adjustBody_complete hg]
  rfl

@[simp] theorem adjusted_w (c b : Factor) (g : Grid) : (g.adjusted c b).w = g.w := rfl
@[simp] theorem adjusted_h (c b : Factor) (g : Grid) : (g.adjusted c b).h = g.h := rfl
@[simp] theorem adjusted_length (c b : Factor) (g : Grid) :
    (g.adjusted c b).cells.length = g.w.toNat * g.h.toNat := by
  simp [Grid.adjusted]

/-- Settles O36: each of the two steps is its exact value, rounded down and clamped. -/
theorem adjustAppliesContrastThenBrightnessExactly : Obligations.AdjustAppliesContrastThenBrightnessExactly := by
  intro s g hg
  refine ⟨g.adjusted s.cfg.contrast s.cfg.bright, exec_adjust_of_valid hg, adjusted_w _ _ _, adjusted_h _ _ _,
    adjusted_length _ _ _, fun x y u t hx hy hu ht => ?_⟩
  rw [adjusted_cell _ _ hx hy, toneSample_toNat, ht, hu, ← contrastStep_eq, ← brightnessStep_eq]

/-! ### The corner factors (R141) -/

theorem contrastStep_one (v : Byte) : contrastStep 0x0100#16 v = v.toNat := by
  have unchanged : 128 + shiftRight8 (((v.toNat : Int) - 128) * (0x0100#16).toNat) = v.toNat := by
    simp [shiftRight8]
  rw [contrastStep, unchanged]
  exact clamp_of_mem _ _ _ (by omega) (by omega)

theorem contrastStep_zero (v : Byte) : contrastStep 0#16 v = 128 := by
  simp [contrastStep, shiftRight8, clamp]

theorem brightnessStep_one {u : Int} (low : 0 ≤ u) (high : u ≤ 255) : brightnessStep 0x0100#16 u = u := by
  have unchanged : shiftRight8 (u * (0x0100#16).toNat) = u := by simp [shiftRight8]
  rw [brightnessStep, unchanged]
  exact clamp_of_mem _ _ _ low high

theorem brightnessStep_zero (u : Int) : brightnessStep 0#16 u = 0 := by
  simp [brightnessStep, shiftRight8, clamp]

theorem toneSample_brightOne (c : Factor) (v : Byte) : toneSample c 0x0100#16 v = toByte (contrastStep c v) := by
  obtain ⟨low, high⟩ := contrastStep_bounds c v
  rw [toneSample, brightnessStep_one low high]

theorem toneSample_one (v : Byte) : toneSample 0x0100#16 0x0100#16 v = v := by
  rw [toneSample_brightOne, contrastStep_one]
  simp [toByte]

theorem toneSample_contrastZero (v : Byte) : toneSample 0#16 0x0100#16 v = 128#8 := by
  rw [toneSample_brightOne, contrastStep_zero]
  rfl

theorem toneSample_brightZero (c : Factor) (v : Byte) : toneSample c 0#16 v = 0#8 := by
  rw [toneSample, brightnessStep_zero]
  rfl

theorem adjusted_eq_self {c b : Factor} {g : Grid} (wf : g.wf = true) (keeps : ∀ v, toneSample c b v = v) :
    g.adjusted c b = g := by
  simp only [Grid.adjusted, keeps, Grid.cell, gridOf_getD_eq_self 0 (length_of_gridWf wf)]

theorem adjusted_eq_replicate {c b : Factor} {a : Byte} (g : Grid) (fills : ∀ v, toneSample c b v = a) :
    g.adjusted c b = Grid.mk g.w g.h (List.replicate (g.w.toNat * g.h.toNat) a) := by
  simp only [Grid.adjusted, fills, gridOf_const]

/-- Settles O37: at the corner factors a cell's new value is its old one, or the same for every old one. -/
theorem adjustCornerFactors : Obligations.AdjustCornerFactors := by
  rintro s g ⟨memWf, -⟩ hg
  obtain ⟨-, -, pixWf, -⟩ := (memory_wf_iff _).1 memWf
  rw [exec_adjust_of_valid hg]
  refine ⟨fun contrast bright => ?_, fun contrast bright => ?_, fun bright => ?_⟩
  · rw [contrast, bright, adjusted_eq_self (pixWf g hg) toneSample_one, ← hg]
  · rw [contrast, bright, adjusted_eq_replicate g toneSample_contrastZero]
  · rw [bright, adjusted_eq_replicate g (toneSample_brightZero _)]

end Sys2Proof.Machine
end

section
/-! SUPPORT and the statements about QUANT.THRESH, QUANT.UNIFORM and QUANT.DITHER (spec/42_quantize.md R150 to R164): the
ways a QUANT command ends, the nearest output level, and the work buffer as the part of an unbounded work plane that lies
inside the grid. -/

namespace Sys2Proof.Machine

open Sys2Proof.Claims

/-! ### How a QUANT command ends (R150, R151) -/

theorem exec_quantThresh (s : State) :
    exec .quantThresh s = finish .qnt (quantBody (fun n => n == 2) (Grid.thresholded s.cfg.thresh) s) s := rfl

theorem exec_quantUniform (s : State) :
    exec .quantUniform s = finish .qnt (quantBody (fun n => n == 4) (Grid.uniform 4) s) s := rfl

theorem exec_quantDither (s : State) :
    exec .quantDither s = finish .qnt (quantBody (fun n => n == 2 || n == 4) (Grid.dithered s.levelCount) s) s := rfl

theorem levelCount_eq_iff {s : State} {n : Nat} (hn : n < 256) : s.levelCount = n ↔ s.cfg.levels = BitVec.ofNat 8 n := by
  refine ⟨levels_of_count, fun h => ?_⟩
  rw [State.levelCount, h, BitVec.toNat_ofNat]
  exact Nat.mod_eq_of_lt hn

section
variable {domain : Nat → Bool} {levels : Grid → List Level} {s : State}

/-- The level count is looked at before PIX (R261). -/
theorem finish_quantBody_unsupported (count : domain s.levelCount = false) :
    finish .qnt (quantBody domain levels s) s =
      .next { s with mem := { s.mem with qnt := none }, err := .unsupportedLevels } := by
  have body : quantBody domain levels s = .error .unsupportedLevels := by
    unfold quantBody
    split_ifs <;> rfl
  rw [body]
  rfl

theorem finish_quantBody_sequence (count : s.levelCount = 2 ∨ s.levelCount = 4) (inDomain : domain s.levelCount = true)
    (hg : s.mem.pix = none) :
    finish .qnt (quantBody domain levels s) s =
      .next { s with mem := { s.mem with qnt := none }, err := .sequence } := by
  have body : quantBody domain levels s = .error .sequence := by simp [quantBody, count, inDomain, hg]
  rw [body]
  rfl

theorem finish_quantBody_complete {g : Grid} (count : s.levelCount = 2 ∨ s.levelCount = 4)
    (inDomain : domain s.levelCount = true) (hg : s.mem.pix = some g) :
    finish .qnt (quantBody domain levels s) s =
      .next { s with
        mem := { s.mem with qnt := some { w := g.w, h := g.h, levels := s.cfg.levels, cells := levels g } }
        err := .ok } := by
  rw [quantBody_complete count inDomain hg]
  rfl

end

/-! ### The level counts each command refuses (R151) -/

theorem exec_quantThresh_unsupported {s : State} (h : s.cfg.levels ≠ 2#8) :
    exec .quantThresh s = .next { s with mem := { s.mem with qnt := none }, err := .unsupportedLevels } := by
  rw [exec_quantThresh]
  exact finish_quantBody_unsupported (by simpa [levelCount_eq_iff] using h)

theorem exec_quantUniform_unsupported {s : State} (h : s.cfg.levels ≠ 4#8) :
    exec .quantUniform s = .next { s with mem := { s.mem with qnt := none }, err := .unsupportedLevels } := by
  rw [exec_quantUniform]
  exact finish_quantBody_unsupported (by simpa [levelCount_eq_iff] using h)

theorem exec_quantDither_unsupported {s : State} (h2 : s.cfg.levels ≠ 2#8) (h4 : s.cfg.levels ≠ 4#8) :
    exec .quantDither s = .next { s with mem := { s.mem with qnt := none }, err := .unsupportedLevels } := by
  rw [exec_quantDither]
  exact finish_quantBody_unsupported (by simpa [levelCount_eq_iff] using ⟨h2, h4⟩)

/-- Settles O43: a level count outside the domain ends the body before it looks at PIX. -/
theorem quantRefusesUnsupportedLevelCounts : Obligations.QuantRefusesUnsupportedLevelCounts :=
  fun _ => ⟨exec_quantThresh_unsupported, exec_quantUniform_unsupported, exec_quantDither_unsupported⟩

/-! ### QUANT.THRESH and QUANT.UNIFORM (R152, R154) -/

theorem thresholdLevel_toNat (t v : Byte) : (thresholdLevel t v).toNat = if t.toNat < v.toNat then 1 else 0 := by
  unfold thresholdLevel
  split_ifs <;> rfl

/-- Settles O38: the body's checks in order, then each level by its own intensity. -/
theorem quantThreshComparesWithTheThreshold : Obligations.QuantThreshComparesWithTheThreshold := by
  refine ⟨rfl, fun _ => exec_quantThresh_unsupported, fun s levels hg => ?_, fun s g levels hg => ?_⟩
  all_goals have count : s.levelCount = 2 := (levelCount_eq_iff (by decide)).2 levels
  · exact finish_quantBody_sequence (.inl count) (by simp [count]) hg
  · refine ⟨_, finish_quantBody_complete (.inl count) (by simp [count]) hg, rfl, rfl, levels,
      (thresholded_cells _ g).1, fun x y hx hy => ?_⟩
    rw [QGrid.cell, Grid.thresholded, gridOf_getD _ _ hx hy, thresholdLevel_toNat]

/-- Settles O39: the body's checks in order, then each level is its intensity's quarter of the range. -/
theorem quantUniformSplitsIntoFourBuckets : Obligations.QuantUniformSplitsIntoFourBuckets := by
  refine ⟨rfl, fun _ => exec_quantUniform_unsupported, fun s levels hg => ?_, fun s g levels hg => ?_⟩
  all_goals have count : s.levelCount = 4 := (levelCount_eq_iff (by decide)).2 levels
  · exact finish_quantBody_sequence (.inr count) (by simp [count]) hg
  · refine ⟨_, finish_quantBody_complete (.inr count) (by simp [count]) hg, rfl, rfl, levels,
      (uniform_cells g).1, fun x y hx hy => ?_⟩
    rw [QGrid.cell, Grid.uniform, gridOf_getD _ _ hx hy, uniformLevel_toNat]
    omega

/-! ### The nearest output level (R157) -/

theorem levelStep_two : levelStep 2 = 255 := by norm_num [levelStep]
theorem levelStep_four : levelStep 4 = 85 := by norm_num [levelStep]

theorem levelStep_pos {n : Nat} (hn : 2 ≤ n) : 0 < levelStep n := by
  have hn' : (2 : Rat) ≤ n := by exact_mod_cast hn
  exact div_pos (by norm_num) (by linarith)

/-- The cut points: a level above 0 is reached at the point midway between the level below and itself. -/
theorem le_nearestLevel_iff {n : Nat} (hn : 2 ≤ n) (old : Rat) {j : Int} (low : 1 ≤ j) (high : j < n) :
    j ≤ nearestLevel n old ↔ ((j : Rat) - 1 / 2) * levelStep n ≤ old := by
  have unclamped (v : Int) : j ≤ clamp v 0 ((n : Int) - 1) ↔ j ≤ v := by
    unfold clamp
    split_ifs <;> omega
  rw [nearestLevel, unclamped, roundHu_le_iff, ← sub_le_iff_le_add, le_div_iff₀ (levelStep_pos hn)]

/-- Of two points the higher one is no farther from a value at or above their midpoint. -/
theorem abs_sub_le_of_midpoint_le {low high v : Rat} (h : low < high) (mid : low + high ≤ 2 * v) :
    |v - high| ≤ |v - low| := by
  rw [abs_of_nonneg (by linarith : 0 ≤ v - low), abs_le]
  constructor <;> linarith

/-- Of two points the lower one is nearer to a value below their midpoint. -/
theorem abs_sub_lt_of_lt_midpoint {low high v : Rat} (h : low < high) (mid : 2 * v < low + high) :
    |v - low| < |v - high| := by
  rw [abs_sub_comm v high, abs_of_pos (by linarith : 0 < high - v), abs_lt]
  constructor <;> linarith

/-- No level below the chosen one is nearer. -/
theorem nearestLevel_distance_le_below {n : Nat} (hn : 2 ≤ n) (old : Rat) {j : Int} (hj : 0 ≤ j)
    (below : j < nearestLevel n old) :
    |old - nearestLevel n old * levelStep n| ≤ |old - j * levelStep n| := by
  have step := levelStep_pos hn
  obtain ⟨-, high⟩ := nearestLevel_bounds (by omega : 1 ≤ n) old
  have reached := (le_nearestLevel_iff hn old (by omega) (by omega)).1 (le_refl (nearestLevel n old))
  have below' : (j : Rat) + 1 ≤ nearestLevel n old := by exact_mod_cast below
  exact abs_sub_le_of_midpoint_le (by nlinarith) (by nlinarith)

/-- Every level above the chosen one is farther. -/
theorem nearestLevel_distance_lt_above {n : Nat} (hn : 2 ≤ n) (old : Rat) {j : Int} (hj : j < n)
    (above : nearestLevel n old < j) :
    |old - nearestLevel n old * levelStep n| < |old - j * levelStep n| := by
  have step := levelStep_pos hn
  obtain ⟨low, -⟩ := nearestLevel_bounds (by omega : 1 ≤ n) old
  have missed := (le_nearestLevel_iff hn old (j := nearestLevel n old + 1) (by omega) (by omega)).not.1 (by omega)
  push_cast at missed
  have above' : (nearestLevel n old : Rat) + 1 ≤ j := by exact_mod_cast above
  exact abs_sub_lt_of_lt_midpoint (by nlinarith) (by nlinarith)

theorem nearestLevel_two (old : Rat) : nearestLevel 2 old = if 255 / 2 ≤ old then 1 else 0 := by
  obtain ⟨low, high⟩ := nearestLevel_bounds (n := 2) (by decide) old
  have cut1 : 1 ≤ nearestLevel 2 old ↔ 255 / 2 ≤ old := by
    rw [le_nearestLevel_iff (by decide) old (by decide) (by decide), levelStep_two]
    norm_num
  simp only [← cut1]
  split_ifs <;> omega

theorem nearestLevel_four (old : Rat) : nearestLevel 4 old =
    if 425 / 2 ≤ old then 3 else if 255 / 2 ≤ old then 2 else if 85 / 2 ≤ old then 1 else 0 := by
  obtain ⟨low, high⟩ := nearestLevel_bounds (n := 4) (by decide) old
  have cut1 : 1 ≤ nearestLevel 4 old ↔ 85 / 2 ≤ old := by
    rw [le_nearestLevel_iff (by decide) old (by decide) (by decide), levelStep_four]
    norm_num
  have cut2 : 2 ≤ nearestLevel 4 old ↔ 255 / 2 ≤ old := by
    rw [le_nearestLevel_iff (by decide) old (by decide) (by decide), levelStep_four]
    norm_num
  have cut3 : 3 ≤ nearestLevel 4 old ↔ 425 / 2 ≤ old := by
    rw [le_nearestLevel_iff (by decide) old (by decide) (by decide), levelStep_four]
    norm_num
  simp only [← cut1, ← cut2, ← cut3]
  split_ifs <;> omega

/-- Settles O41: a level is chosen from its lower cut point on, which lies midway to the level below. -/
theorem nearestLevelIsNearestWithTiesUp : Obligations.NearestLevelIsNearestWithTiesUp := by
  refine ⟨⟨levelStep_two, levelStep_four⟩, ?_, nearestLevel_two, nearestLevel_four⟩
  rintro n old _ count rfl
  have hn : 2 ≤ n := by omega
  obtain ⟨low, high⟩ := nearestLevel_bounds (by omega : 1 ≤ n) old
  refine ⟨low, by omega, fun j hj hjn => ?_⟩
  obtain below | rfl | above := lt_trichotomy j (nearestLevel n old)
  · exact ⟨nearestLevel_distance_le_below hn old hj below, fun h => absurd h (by omega)⟩
  · exact ⟨le_refl _, fun h => absurd h (by omega)⟩
  · have farther := nearestLevel_distance_lt_above hn old hjn above
    exact ⟨farther.le, fun _ => farther⟩

/-! ### The shares a visit delivers (R160, R164) -/

theorem addAt_if_sum (c : Prop) [Decidable c] {j : Nat} (v : Rat) {work : List Rat} (hj : c → j < work.length) :
    (if c then addAt j v work else work).sum = work.sum + if c then v else 0 := by
  split_ifs with h
  · exact addAt_sum j v (hj h)
  · rw [add_zero]

/-- The part of its error that the visit of (x, y) delivers: the shares of the neighbours inside the grid (R160). -/
def deliveredShare (w h x y : Nat) : Rat :=
  (if x + 1 < w then 7 / 16 else 0) + (if 1 ≤ x ∧ y + 1 < h then 3 / 16 else 0) + (if y + 1 < h then 5 / 16 else 0) +
    (if x + 1 < w ∧ y + 1 < h then 1 / 16 else 0)

theorem diffuse_sum {w h x y : Nat} (e : Rat) {work : List Rat} (hl : work.length = w * h) (hx : x < w) (hy : y < h) :
    (diffuse w h x y e work).sum = work.sum + e * deliveredShare w h x y := by
  unfold diffuse
  dsimp only
  rw [addAt_if_sum _ _ fun c => by simp only [addAt_if_length, hl]; exact row_index_lt c.1 c.2,
    addAt_if_sum _ _ fun c => by simp only [addAt_if_length, hl]; exact row_index_lt hx c,
    addAt_if_sum _ _ fun c => by simp only [addAt_if_length, hl]; exact row_index_lt (by omega) c.2,
    addAt_if_sum _ _ fun c => by rw [hl]; exact row_index_lt c hy]
  simp only [deliveredShare, mul_add, mul_ite, mul_zero, add_assoc]

/-- The last pixel has no neighbour still to be visited. -/
theorem diffuse_last {w h x y : Nat} (e : Rat) (work : List Rat) (hx : x + 1 = w) (hy : y + 1 = h) :
    diffuse w h x y e work = work := by
  simp [diffuse, hx, hy]

/-- Settles O42: the sum grows by the shares of the neighbours that exist. -/
theorem deliveredErrorSharesSumAsTheBorderSays : Obligations.DeliveredErrorSharesSumAsTheBorderSays := by
  intro w h x y e work hl hx hy
  rw [diffuse_length, diffuse_sum e hl hx hy]
  refine ⟨hl, fun left right below => ?_, fun left right below => ?_, fun left right below => ?_,
    fun left right below => ?_, fun right below => ?_, diffuse_last e work⟩
  · norm_num [deliveredShare, left, right, below]
  · norm_num [deliveredShare, left, right, below]
  · subst left; norm_num [deliveredShare, right, below]
  · subst left right; norm_num [deliveredShare, below]
  · norm_num [deliveredShare, right, below]

/-! ### QUANT.DITHER (R156 to R161) -/

/-- The work buffer of a w × h grid holds the part of an unbounded work plane that lies inside the grid. -/
structure HoldsPlane (w h : Nat) (work : List Rat) (plane : Nat → Nat → Rat) : Prop where
  length : work.length = w * h
  cell : ∀ x y, x < w → y < h → work.getD (y * w + x) 0 = plane x y

theorem index_in_grid {w h i : Nat} (hi : i < w * h) : i % w < w ∧ i / w < h := by
  have hw : 0 < w := Nat.pos_of_mul_pos_right (Nat.zero_lt_of_lt hi)
  exact ⟨Nat.mod_lt _ hw, Nat.div_lt_of_lt_mul hi⟩

theorem HoldsPlane.getD {w h i : Nat} {work : List Rat} {plane : Nat → Nat → Rat} (holds : HoldsPlane w h work plane)
    (hi : i < w * h) : work.getD i 0 = plane (i % w) (i / w) := by
  obtain ⟨column, row⟩ := index_in_grid hi
  rw [← holds.cell _ _ column row, Nat.div_add_mod']

/-- The visit of pixel i on the buffer is the visit on the plane: what falls outside the grid is never read again. -/
theorem HoldsPlane.visit {n w h i : Nat} {work : List Rat} {plane : Nat → Nat → Rat} (holds : HoldsPlane w h work plane)
    (hi : i < w * h) : HoldsPlane w h (ditherVisit n w h i work) (spread n plane (i % w) (i / w)) := by
  obtain ⟨column, -⟩ := index_in_grid hi
  refine ⟨(diffuse_length ..).trans holds.length, fun a b ha hb => ?_⟩
  rw [ditherVisit, diffuse_getD holds.length column ha hb, holds.cell a b ha hb, holds.getD hi, spread, quantError]
  simp only [mul_ite, mul_zero]

theorem workBuffer_holds (n : Nat) (g : Grid) : HoldsPlane g.w.toNat g.h.toNat g.workBuffer (workBefore n g 0) :=
  ⟨gridOf_length _ _ _, fun _ _ hx hy => gridOf_getD _ _ hx hy⟩

/-- From a buffer that holds the plane the pass has reached pixel i with, level number k of the rest is the nearest level
of the work value when the pass comes to pixel i + k. -/
theorem ditherFrom_getD {n : Nat} {g : Grid} {count i k : Nat} {work : List Rat}
    (holds : HoldsPlane g.w.toNat g.h.toNat work (workBefore n g i)) (inside : i + count ≤ g.w.toNat * g.h.toNat)
    (hk : k < count) :
    (ditherFrom n g.w.toNat g.h.toNat count i work).getD k 0 =
      toLevel (nearestLevel n (workBefore n g (i + k) ((i + k) % g.w.toNat) ((i + k) / g.w.toNat))) := by
  induction count generalizing i k work with
  | zero => omega
  | succ count ih =>
    have hi : i < g.w.toNat * g.h.toNat := by omega
    cases k with
    | zero => rw [ditherFrom, List.getD_cons_zero, holds.getD hi, Nat.add_zero]
    | succ k =>
      rw [ditherFrom, List.getD_cons_succ, ih (holds.visit hi) (by omega) (by omega), Nat.add_right_comm, Nat.add_assoc]

/-- The level at (x, y) is the nearest level of the work value the pass finds there. -/
theorem dithered_getD (n : Nat) (g : Grid) {x y : Nat} (hx : x < g.w.toNat) (hy : y < g.h.toNat) :
    (g.dithered n).getD (y * g.w.toNat + x) 0 =
      toLevel (nearestLevel n (workBefore n g (y * g.w.toNat + x) x y)) := by
  rw [Grid.dithered, ditherFrom_getD (workBuffer_holds n g) (by omega) (row_index_lt hx hy), Nat.zero_add,
    row_index_mod y hx, row_index_div y hx]

/-- Settles O40: at every pixel the work buffer holds the work plane of the unbounded pass. -/
theorem quantDitherIsExactErrorDiffusion : Obligations.QuantDitherIsExactErrorDiffusion := by
  intro s g n hn levels hg
  have count : s.levelCount = n := (levelCount_eq_iff (by omega)).2 levels
  have supported : s.levelCount = 2 ∨ s.levelCount = 4 := by rwa [count]
  refine ⟨_, finish_quantBody_complete supported (by simpa using supported) hg, rfl, rfl, rfl,
    (dithered_cells supported g).1, fun x y hx hy => ?_⟩
  obtain ⟨low, high⟩ := nearestLevel_bounds (by omega : 1 ≤ n) (workBefore n g (y * g.w.toNat + x) x y)
  rw [QGrid.cell, count, dithered_getD n g hx hy]
  exact toLevel_toNat low high (by omega)

end Sys2Proof.Machine
end

section
/-! SUPPORT and the statements about PACK.1 and PACK.2 (spec/43_pack.md R180 to R188): the ways a PACK command ends, and
the field that stands at each pixel position of a packed buffer, for both formats at once. -/

namespace Sys2Proof.Machine

open Sys2Proof.Claims

/-! ### How a PACK command ends (R181, R184) -/

theorem exec_pack1 (s : State) : exec .pack1 s = finish .buf (packBody 1 blackBit s) s := rfl

theorem exec_pack2 (s : State) : exec .pack2 s = finish .buf (packBody 2 levelField s) s := rfl

section
variable {bpp : Nat} {field : Level → Byte} {s : State} {g : QGrid}

theorem finish_packBody_complete (hg : s.mem.qnt = some g) (levels : g.levels.toNat = 2 ^ bpp) :
    finish .buf (packBody bpp field s) s =
      .next { s with mem := { s.mem with buf := some (g.packed bpp field) }, err := .ok } := by
  rw [packBody_complete hg levels]
  rfl

theorem finish_packBody_unsupported (hg : s.mem.qnt = some g) (levels : g.levels.toNat ≠ 2 ^ bpp) :
    finish .buf (packBody bpp field s) s =
      .next { s with mem := { s.mem with buf := none }, err := .unsupportedLevels } := by
  have body : packBody bpp field s = .error .unsupportedLevels := by simp only [packBody, hg, if_neg levels]
  rw [body]
  rfl

end

/-- Settles O46: a level count other than 2 to the bits per pixel ends the body of either format. -/
theorem packRefusesAGridOfTheOtherFormat : Obligations.PackRefusesAGridOfTheOtherFormat := by
  refine ⟨rfl, fun s g hg => ⟨fun levels => ?_, fun levels => ?_⟩⟩
  · exact (exec_pack1 s).trans (finish_packBody_unsupported hg (BitVec.toNat_ne_iff_ne.2 levels))
  · exact (exec_pack2 s).trans (finish_packBody_unsupported hg (BitVec.toNat_ne_iff_ne.2 levels))

/-! ### The fields of a packed buffer (R62 to R64, R186) -/

theorem pixelsPerByte_one : pixelsPerByte 1 = 8 := rfl

theorem pixelsPerByte_two : pixelsPerByte 2 = 4 := rfl

section
variable {bpp : Nat} {field : Level → Byte} (hb : bpp = 1 ∨ bpp = 2) (hf : ∀ q, (field q).toNat < 2 ^ bpp) (g : QGrid)
include hb hf

/-- Field x mod ppb of byte y·rowbytes + x div ppb is the field of the level at (x, y). -/
theorem fieldAt_packed_pixel {x y : Nat} (hx : x < g.w.toNat) (hy : y < g.h.toNat) :
    fieldAt bpp ((g.packed bpp field).byte (y * rowBytes bpp g.w.toNat + x / pixelsPerByte bpp))
      (x % pixelsPerByte bpp) = field (g.cell x y) := by
  have hp := pixelsPerByte_pos hb
  rw [packed_byte field g (div_lt_ceilDiv hp hx) hy, fieldAt_packByte hb hf _ _ _ (Nat.mod_lt _ hp), Nat.div_add_mod,
    if_pos hx]

theorem fieldAt_packed_padding {j y k : Nat} (hj : j < rowBytes bpp g.w.toNat) (hy : y < g.h.toNat)
    (hk : k < pixelsPerByte bpp) (past : g.w.toNat ≤ pixelsPerByte bpp * j + k) :
    fieldAt bpp ((g.packed bpp field).byte (y * rowBytes bpp g.w.toNat + j)) k = 0#8 := by
  rw [packed_byte field g hj hy, fieldAt_packByte hb hf _ _ _ hk, if_neg (Nat.not_lt.2 past)]

end

/-! ### PACK.1 (R182) -/

/-- The field of the 1-bit format read back as the bit it stands for. -/
theorem getLsbD_eq_decide_fieldAt_one (b : Byte) (k : Nat) : b.getLsbD (7 - k) = decide (fieldAt 1 b k = 1#8) := by
  rw [fieldAt_one]
  cases b.getLsbD (7 - k) <;> rfl

theorem blackBit_eq_one_iff (q : Level) : blackBit q = 1#8 ↔ q = 0#2 := by
  unfold blackBit
  split_ifs with black <;> simp [black]

/-- Settles O44: each bit is the field of its pixel, or of no pixel, in the 1-bit format. -/
theorem pack1WritesOneBlackBitPerPixel : Obligations.Pack1WritesOneBlackBitPerPixel := by
  intro s g hg levels
  refine ⟨_, (exec_pack1 s).trans (finish_packBody_complete hg (by rw [levels]; rfl)), packed_w .., packed_h ..,
    packed_bpp .., (packed_length ..).trans (expectedBytes_one ..), fun x y hx hy => ?_, fun j y k hj hy hk past => ?_⟩
  · have pixel := fieldAt_packed_pixel (.inl rfl) blackBit_small g hx hy
    rw [rowBytes_one, pixelsPerByte_one] at pixel
    rw [getLsbD_eq_decide_fieldAt_one, pixel]
    exact decide_eq_decide.2 (blackBit_eq_one_iff _)
  · rw [← rowBytes_one] at hj ⊢
    rw [getLsbD_eq_decide_fieldAt_one, fieldAt_packed_padding (.inl rfl) blackBit_small g hj hy hk past]
    rfl

/-! ### PACK.2 (R183) -/

theorem levelField_toNat (q : Level) : (levelField q).toNat = q.toNat := BitVec.toNat_setWidth_of_le (by decide)

/-- Settles O45: each pair of bits is the field of its pixel, or of no pixel, in the 2-bit format. -/
theorem pack2WritesTheLevelInTwoBits : Obligations.Pack2WritesTheLevelInTwoBits := by
  intro s g hg levels
  refine ⟨_, (exec_pack2 s).trans (finish_packBody_complete hg (by rw [levels]; rfl)), packed_w .., packed_h ..,
    packed_bpp .., (packed_length ..).trans (expectedBytes_two ..), fun x y hx hy => ?_, fun j y k hj hy hk past => ?_⟩
  · have pixel := fieldAt_packed_pixel (.inr rfl) levelField_small g hx hy
    rw [rowBytes_two, pixelsPerByte_two] at pixel
    rw [← fieldAt_two_toNat _ (Nat.mod_lt x (by decide)), pixel, levelField_toNat]
  · rw [← rowBytes_two] at hj ⊢
    rw [← fieldAt_two_toNat _ hk, fieldAt_packed_padding (.inr rfl) levelField_small g hj hy hk past]
    rfl

end Sys2Proof.Machine
end

section
/-! SUPPORT and the statements about UNPACK.1, UNPACK.2 and DETECT (spec/44_unpack.md R200 to R210): the way an UNPACK
command completes and what it decodes for a byte that is there and for one that is missing, for both formats at once; that
unpacking undoes packing; and DETECT's answer from the length. -/

namespace Sys2Proof.Machine

open Sys2Proof.Claims

/-! ### How an UNPACK command completes (R201, R205) -/

theorem exec_unpack1 (s : State) : exec .unpack1 s = finish .dec (unpackBody 1 intensity1 Config.shortPolicy s) s := rfl

theorem exec_unpack2 (s : State) : exec .unpack2 s = finish .dec (unpackBody 2 intensity2 Config.shortPolicy s) s := rfl

section
variable {bpp : Nat} {intensity : Byte → Byte} {policy : Config.ShortPolicy} {l : List Byte}

theorem finish_unpackBody_complete {s : State} (hw : s.cfg.tw ≠ 0#16) (hh : s.cfg.th ≠ 0#16)
    (hv : s.mem.vbuf = some l) :
    finish .dec (unpackBody bpp intensity policy s) s = .next { s with
      mem := { s.mem with dec := some (unpackedGrid bpp intensity policy l s.cfg.tw s.cfg.th) }
      err := .ok
      short := decide (l.length < expectedBytes bpp s.cfg.tw.toNat s.cfg.th.toNat)
      long := decide (expectedBytes bpp s.cfg.tw.toNat s.cfg.th.toNat < l.length)
      dcount := BitVec.ofNat 32 (min l.length (expectedBytes bpp s.cfg.tw.toNat s.cfg.th.toNat)) } := by
  rw [unpackBody_complete (dim_toNat_ne_zero hw) (dim_toNat_ne_zero hh) hv]
  rfl

/-! ### One pixel (R201, R206) -/

theorem unpackPixel_of_byte {w x y : Nat} {b : Byte}
    (hb : l[y * rowBytes bpp w + x / pixelsPerByte bpp]? = some b) :
    unpackPixel bpp intensity policy l w x y = some (intensity (fieldAt bpp b (x % pixelsPerByte bpp))) := by
  simp [unpackPixel, byteOrFill, hb]

theorem fieldAt_zero (bpp k : Nat) : fieldAt bpp 0#8 k = 0#8 := by simp [fieldAt]

/-- A missing byte decodes as a byte 0x00 would, or not at all, as the policy says. -/
theorem unpackPixel_of_missing {w x y : Nat} (missing : l.length ≤ y * rowBytes bpp w + x / pixelsPerByte bpp) :
    unpackPixel bpp intensity policy l w x y = (fillByte policy).map fun _ => intensity 0#8 := by
  rw [unpackPixel, byteOrFill, List.getElem?_eq_none missing]
  cases policy
  case zeroFillBytes => simp [fillByte, fieldAt_zero]
  case stopEarly => rfl

end

/-! ### UNPACK.1 and UNPACK.2 (R202, R203) -/

theorem intensity1_fieldAt (b : Byte) (k : Nat) :
    intensity1 (fieldAt 1 b k) = if b.getLsbD (7 - k) then 0#8 else 255#8 := by
  simp only [intensity1, getLsbD_eq_decide_fieldAt_one, decide_eq_true_eq]

theorem intensity2_toNat {field : Byte} (h : field.toNat < 4) : (intensity2 field).toNat = 85 * field.toNat := by
  have value : (intensity2 field).toNat = field.toNat * 85 % 256 := BitVec.toNat_mul ..
  omega

/-- Settles O47: a pixel is its bit's intensity, or what the policy makes of a missing byte. -/
theorem unpack1DecodesEachBit : Obligations.Unpack1DecodesEachBit := by
  intro s l hw hh hv
  rw [← rowBytes_one]
  refine ⟨_, (exec_unpack1 s).trans (finish_unpackBody_complete hw hh hv), rfl, rfl, gridOf_length .., fun x y hx hy => ?_⟩
  rw [unpackedGrid_cell _ _ _ _ _ _ hx hy]
  refine ⟨fun b hb => ?_, fun missing => ?_⟩
  · rw [unpackPixel_of_byte hb, intensity1_fieldAt, pixelsPerByte_one]
  · rw [unpackPixel_of_missing missing]
    cases Config.shortPolicy <;> rfl

/-- Settles O48: a pixel is its field's intensity, or what the policy makes of a missing byte. -/
theorem unpack2DecodesEachLevel : Obligations.Unpack2DecodesEachLevel := by
  intro s l hw hh hv
  rw [← rowBytes_two]
  refine ⟨_, (exec_unpack2 s).trans (finish_unpackBody_complete hw hh hv), rfl, rfl, gridOf_length .., fun x y hx hy => ?_⟩
  rw [unpackedGrid_cell _ _ _ _ _ _ hx hy]
  refine ⟨fun b hb => ⟨_, unpackPixel_of_byte hb, ?_⟩, fun missing => ?_⟩
  · have field := fieldAt_two_toNat b (Nat.mod_lt x (by decide : 0 < 4))
    rw [pixelsPerByte_two, intensity2_toNat (by omega), field]
  · rw [unpackPixel_of_missing missing]
    cases Config.shortPolicy <;> rfl

/-! ### Unpacking undoes packing (R207) -/

theorem getElem?_byte {b : PackedBuf} {i : Nat} (hi : i < b.bytes.length) : b.bytes[i]? = some (b.byte i) := by
  simp [PackedBuf.byte, hi]

theorem dim_ne_zero_of_pos {v : Dim} (h : 1 ≤ v.toNat) : v ≠ 0#16 := by
  rintro rfl
  exact absurd h (by decide)

theorem qgrid_cell_lt {g : QGrid} (wf : g.wf = true) (x y : Nat) : (g.cell x y).toNat < g.levels.toNat := by
  simp only [QGrid.wf, decide_eq_true_eq] at wf
  obtain ⟨-, -, levels, -, cells⟩ := wf
  by_cases inside : y * g.w.toNat + x < g.cells.length
  · rw [QGrid.cell, List.getD_eq_getElem _ _ inside]
    exact cells _ (List.getElem_mem inside)
  · rw [QGrid.cell, List.getD_eq_default _ _ (Nat.le_of_not_lt inside)]
    obtain levels | levels := levels <;> rw [levels] <;> decide

section
variable {bpp : Nat} {field : Level → Byte} {g : QGrid} {intensity : Byte → Byte} {policy : Config.ShortPolicy}

theorem finish_unpackBody_packed {s : State} (wf : g.wf = true) (tw : s.cfg.tw = g.w) (th : s.cfg.th = g.h)
    (hv : s.mem.vbuf = some (g.packed bpp field).bytes) :
    finish .dec (unpackBody bpp intensity policy s) s = .next { s with
      mem := { s.mem with dec := some (unpackedGrid bpp intensity policy (g.packed bpp field).bytes g.w g.h) }
      err := .ok, short := false, long := false
      dcount := BitVec.ofNat 32 (g.packed bpp field).bytes.length } := by
  simp only [QGrid.wf, decide_eq_true_eq] at wf
  obtain ⟨hw, hh, -⟩ := wf
  rw [finish_unpackBody_complete (tw ▸ dim_ne_zero_of_pos hw) (th ▸ dim_ne_zero_of_pos hh) hv]
  simp [tw, th]

variable (hb : bpp = 1 ∨ bpp = 2) (hf : ∀ q, (field q).toNat < 2 ^ bpp)
include hb hf

/-- No byte of a packed buffer is missing, so every pixel is decoded from the field its own level was packed into. -/
theorem unpackedGrid_packed_cell {x y : Nat} (hx : x < g.w.toNat) (hy : y < g.h.toNat) :
    (unpackedGrid bpp intensity policy (g.packed bpp field).bytes g.w g.h).cell x y =
      some (intensity (field (g.cell x y))) := by
  have present := (byte_index_lt (pixelsPerByte_pos hb) hx hy).trans_eq (packed_length bpp field g).symm
  rw [unpackedGrid_cell _ _ _ _ _ _ hx hy, unpackPixel_of_byte (getElem?_byte present),
    fieldAt_packed_pixel hb hf g hx hy]

theorem packed_length_toNat (wf : g.wf = true) :
    (BitVec.ofNat 32 (g.packed bpp field).bytes.length).toNat = (g.packed bpp field).bytes.length := by
  have fits := packedBuf_length_le (packed_wf hb hf wf)
  rw [BitVec.toNat_ofNat]
  exact Nat.mod_eq_of_lt (by omega)

end

theorem intensity1_blackBit_toNat {q : Level} (hq : q.toNat < 2) :
    (intensity1 (blackBit q)).toNat = q.toNat * 255 / (2 - 1) := by
  revert q
  decide

theorem intensity2_levelField_toNat (q : Level) : (intensity2 (levelField q)).toNat = q.toNat * 255 / (4 - 1) := by
  rw [intensity2_toNat (levelField_small q), levelField_toNat]
  omega

/-- Settles O49: each format's intensity of its own field of a level is the level's share of 255. -/
theorem packThenUnpackRestoresEveryLevel : Obligations.PackThenUnpackRestoresEveryLevel := by
  intro s s' g n pack unpack hs hg levels format tw th
  obtain ⟨planes, -⟩ := hs
  obtain ⟨-, -, -, qnt, -⟩ := (memory_wf_iff _).1 planes
  have wf := qnt g hg
  obtain ⟨rfl, rfl, rfl⟩ | ⟨rfl, rfl, rfl⟩ := format
  · have count : g.levels.toNat = 2 := by rw [levels]; rfl
    refine ⟨_, _, (exec_pack1 s).trans (finish_packBody_complete hg count), rfl, fun hv => ?_⟩
    refine ⟨_, _, (exec_unpack1 s').trans (finish_unpackBody_packed wf tw th hv), rfl, rfl, rfl,
      packed_length_toNat (.inl rfl) blackBit_small wf, rfl, fun x y hx hy => ?_⟩
    exact ⟨_, unpackedGrid_packed_cell (.inl rfl) blackBit_small hx hy,
      intensity1_blackBit_toNat ((qgrid_cell_lt wf x y).trans_eq count)⟩
  · have count : g.levels.toNat = 4 := by rw [levels]; rfl
    refine ⟨_, _, (exec_pack2 s).trans (finish_packBody_complete hg count), rfl, fun hv => ?_⟩
    refine ⟨_, _, (exec_unpack2 s').trans (finish_unpackBody_packed wf tw th hv), rfl, rfl, rfl,
      packed_length_toNat (.inr rfl) levelField_small wf, rfl, fun x y hx hy => ?_⟩
    exact ⟨_, unpackedGrid_packed_cell (.inr rfl) levelField_small hx hy, intensity2_levelField_toNat _⟩

theorem execAll_pair {i j : Instr} {s t u : State} (first : exec i s = .next t) (second : exec j t = .next u) :
    execAll [i, j] s = .next u := by
  simp only [execAll, first, second]

/-- A quantizer, then the packer and the unpacker of its level count, put into DEC what holds of the levels restored. -/
theorem quantize_pack_unpack {s s' t : State} {g : Grid} {q : QGrid} {n : Nat} {quant pack unpack : Instr}
    {P : Nat → Nat → Option Byte → Prop} (hs : Inv s) (run : exec quant s = .next t) (hq : t.mem.qnt = some q)
    (levels : q.levels = BitVec.ofNat 8 n)
    (format : (n = 2 ∧ pack = .pack1 ∧ unpack = .unpack1) ∨ (n = 4 ∧ pack = .pack2 ∧ unpack = .unpack2))
    (w : q.w = g.w) (h : q.h = g.h) (tw : s'.cfg.tw = g.w) (th : s'.cfg.th = g.h)
    (restored : ∀ x y v, x < g.w.toNat → y < g.h.toNat → v.toNat = (q.cell x y).toNat * 255 / (n - 1) → P x y (some v)) :
    ∃ t b, execAll [quant, pack] s = .next t ∧ t.mem.buf = some b ∧
      (s'.mem.vbuf = some b.bytes → ∃ u d, exec unpack s' = .next u ∧ u.mem.dec = some d ∧
        ∀ x y, x < g.w.toNat → y < g.h.toNat → P x y (d.cell x y)) := by
  obtain ⟨t', b, packs, hb, unpacks⟩ := packThenUnpackRestoresEveryLevel t s' q n pack unpack
    (exec_keeps_inv hs run) hq levels format (tw.trans w.symm) (th.trans h.symm)
  refine ⟨t', b, execAll_pair run packs, hb, fun hv => ?_⟩
  obtain ⟨u, d, run', hd, -, -, -, -, cells⟩ := unpacks hv
  refine ⟨u, d, run', hd, fun x y hx hy => ?_⟩
  obtain ⟨v, cell, value⟩ := cells x y (w ▸ hx) (h ▸ hy)
  exact cell ▸ restored x y v hx hy value

/-- Settles O50: the levels are as O39 and O38 say, and O49 restores them. -/
theorem quantizePackUnpackGivesTheSourcesRoundTrips : Obligations.QuantizePackUnpackGivesTheSourcesRoundTrips := by
  intro s s' g hs hg tw th
  refine ⟨fun levels => ?_, fun levels => ?_⟩
  · obtain ⟨-, -, -, quantizes⟩ := quantUniformSplitsIntoFourBuckets
    obtain ⟨q, run, w, h, count, -, buckets⟩ := quantizes s g levels hg
    refine quantize_pack_unpack (P := fun x y c => ∃ v, c = some v ∧ v.toNat = 85 * ((g.cell x y).toNat * 4 / 256))
      hs run rfl count (.inr ⟨rfl, rfl, rfl⟩) w h tw th fun x y v hx hy value => ⟨v, rfl, ?_⟩
    obtain ⟨level, -⟩ := buckets x y hx hy
    omega
  · obtain ⟨-, -, -, quantizes⟩ := quantThreshComparesWithTheThreshold
    obtain ⟨q, run, w, h, count, -, level⟩ := quantizes s g levels hg
    refine quantize_pack_unpack
      (P := fun x y c => c = some (if s.cfg.thresh.toNat < (g.cell x y).toNat then 255#8 else 0#8))
      hs run rfl count (.inl ⟨rfl, rfl, rfl⟩) w h tw th fun x y v hx hy value =>
        congrArg some (BitVec.eq_of_toNat_eq ?_)
    rw [value, level x y hx hy]
    split_ifs <;> rfl

/-! ### DETECT (R208, R209) -/

theorem exec_detect (s : State) : exec .detect s = finish .vbpp (detectBody s) s := rfl

theorem exec_detect_config {s : State} (h : s.cfg.tw = 0#16 ∨ s.cfg.th = 0#16) :
    exec .detect s = .next { s with vbpp := 0#2, err := .config } := by
  have zero : s.targetW = 0 ∨ s.targetH = 0 := h.imp (congrArg BitVec.toNat) (congrArg BitVec.toNat)
  rw [exec_detect, detectBody, if_pos zero]
  rfl

section
variable {s : State} (hw : s.cfg.tw ≠ 0#16) (hh : s.cfg.th ≠ 0#16)
include hw hh

theorem exec_detect_sequence (hv : s.mem.vbuf = none) :
    exec .detect s = .next { s with vbpp := 0#2, err := .sequence } := by
  have nonzero : ¬(s.targetW = 0 ∨ s.targetH = 0) := not_or.2 ⟨dim_toNat_ne_zero hw, dim_toNat_ne_zero hh⟩
  rw [exec_detect, detectBody, if_neg nonzero, hv]
  rfl

/-- With a target and a buffer DETECT's outcome is a choice on the buffer's length. -/
theorem exec_detect_of_vbuf {l : List Byte} (hv : s.mem.vbuf = some l) :
    exec .detect s = .next
      (if l.length = expectedBytes 1 s.targetW s.targetH then { s with vbpp := 1#2, err := .ok }
       else if l.length = expectedBytes 2 s.targetW s.targetH then { s with vbpp := 2#2, err := .ok }
       else { s with vbpp := 0#2, err := .sizeMismatch }) := by
  have nonzero : ¬(s.targetW = 0 ∨ s.targetH = 0) := not_or.2 ⟨dim_toNat_ne_zero hw, dim_toNat_ne_zero hh⟩
  rw [exec_detect, detectBody, if_neg nonzero, hv]
  dsimp only
  split_ifs <;> rfl

end

/-- Settles O51: the two checks of the body, then the choice on the length. -/
theorem detectChoosesTheFormatFromTheLength : Obligations.DetectChoosesTheFormatFromTheLength := by
  refine ⟨rfl, rfl, fun _ => exec_detect_config, fun _ => exec_detect_sequence, fun s l hw hh hv => ?_⟩
  rw [← expectedBytes_one, ← expectedBytes_two]
  have answer := exec_detect_of_vbuf hw hh hv
  exact ⟨fun one => answer.trans (congrArg _ (if_pos one)),
    fun one two => answer.trans (congrArg _ ((if_neg one).trans (if_pos two))),
    fun one two => answer.trans (congrArg _ ((if_neg one).trans (if_neg two)))⟩

theorem rowSizes_eq_iff {w : Nat} (hw : 1 ≤ w) : (w + 7) / 8 = (w + 3) / 4 ↔ w ≤ 4 := by omega

/-- Settles O52: O51's choice on the length, with row sizes that part at width 5. -/
theorem detectIsAmbiguousExactlyForNarrowTargets : Obligations.DetectIsAmbiguousExactlyForNarrowTargets := by
  intro s l hw hh hv
  have wpos := Nat.pos_of_ne_zero (dim_toNat_ne_zero hw)
  have ambiguous : (s.cfg.tw.toNat + 7) / 8 * s.cfg.th.toNat = (s.cfg.tw.toNat + 3) / 4 * s.cfg.th.toNat ↔
      s.cfg.tw.toNat ≤ 4 := (Nat.mul_left_inj (dim_toNat_ne_zero hh)).trans (rowSizes_eq_iff wpos)
  obtain ⟨-, -, -, -, choice⟩ := detectChoosesTheFormatFromTheLength
  obtain ⟨answersOne, answersTwo, -⟩ := choice s l hw hh hv
  refine ⟨ambiguous, fun narrow length => answersOne ?_, fun wide length => answersTwo (fun one => ?_) length⟩
  · have oneByteRows : (s.cfg.tw.toNat + 7) / 8 = 1 := by omega
    rw [length, oneByteRows, Nat.one_mul]
  · exact absurd (ambiguous.1 (one.symm.trans length)) (by omega)

end Sys2Proof.Machine
end

section
/-! SUPPORT and the statements about NOP, CLEAR and CONVERT (spec/45_system.md R230 to R238): the buffer CONVERT packs as a
function of PIX and the configuration, how CONVERT ends, and a constant image on its way through the stages. -/

namespace Sys2Proof.Machine

open Sys2Proof.Claims

/-! ### NOP, CLEAR (R230, R231) -/

/-- Settles O27: the word is NOP's, and NOP's meaning is the state it is issued in. -/
theorem nopChangesNothing : Obligations.NopChangesNothing := ⟨decode_encode .nop, exec_nop⟩

theorem exec_clear (s : State) :
    exec .clear s = .next { s with
      mem := s.mem.cleared, short := false, long := false, vbpp := 0#2, dcount := 0#32, err := .ok } := rfl

/-- Settles O28: the word is CLEAR's, and everything CLEAR writes is as a reset block has it. -/
theorem clearDiscardsEveryResult : Obligations.ClearDiscardsEveryResult :=
  ⟨decode_encode .clear, fun c => exec_clear (State.resetWith c), exec_clear⟩

/-! ### What CONVERT makes of PIX (R235, R238) -/

/-- The levels of the quantizer that the mode of c chooses for p, ADJUST before it on the dithered path alone. -/
def convertedLevels (c : ConfigRegs) (p : Grid) : List Level :=
  if c.levels.toNat = 2 then
    if c.dither = 1#1 then (p.adjusted c.contrast c.bright).dithered 2 else p.thresholded c.thresh
  else p.uniform 4

/-- QNT as CONVERT's quantizer leaves it. -/
def convertedGrid (c : ConfigRegs) (p : Grid) : QGrid :=
  { w := p.w, h := p.h, levels := c.levels, cells := convertedLevels c p }

/-- BUF as CONVERT's packer leaves it. -/
def convertedBuf (c : ConfigRegs) (p : Grid) : PackedBuf :=
  if c.levels.toNat = 2 then (convertedGrid c p).packed 1 blackBit else (convertedGrid c p).packed 2 levelField

section
variable {c : ConfigRegs} (p : Grid)

theorem convertedBuf_of_two (two : c.levels.toNat = 2) :
    convertedBuf c p = (convertedGrid c p).packed 1 blackBit := if_pos two

theorem convertedBuf_of_four (four : c.levels.toNat = 4) :
    convertedBuf c p = (convertedGrid c p).packed 2 levelField := if_neg (by omega)

theorem convertedLevels_of_dithered (two : c.levels.toNat = 2) (dithered : c.dither = 1#1) :
    convertedLevels c p = (p.adjusted c.contrast c.bright).dithered 2 := by
  rw [convertedLevels, if_pos two, if_pos dithered]

theorem convertedLevels_of_undithered (two : c.levels.toNat = 2) (undithered : c.dither ≠ 1#1) :
    convertedLevels c p = p.thresholded c.thresh := by
  rw [convertedLevels, if_pos two, if_neg undithered]

theorem convertedLevels_of_four (four : c.levels.toNat = 4) : convertedLevels c p = p.uniform 4 :=
  if_neg (by omega)

theorem convertedGrid_cell_of_four (four : c.levels.toNat = 4) {x y : Nat} (hx : x < p.w.toNat) (hy : y < p.h.toNat) :
    (convertedGrid c p).cell x y = uniformLevel 4 (p.cell x y) := by
  simp only [QGrid.cell, convertedGrid, convertedLevels_of_four p four, Grid.uniform]
  exact gridOf_getD _ _ hx hy

/-- The configuration counts for the buffer only by LEVELS and by what it makes of the levels. -/
theorem convertedBuf_congr {c' : ConfigRegs} (levels : c.levels = c'.levels)
    (cells : convertedLevels c p = convertedLevels c' p) : convertedBuf c p = convertedBuf c' p := by
  simp only [convertedBuf, convertedGrid, levels, cells]

end

/-! ### The stages of CONVERT (R235) -/

/-- A quantizer, then the packer of its level count. -/
theorem quantThenPack_complete {domain : Nat → Bool} {levels : Grid → List Level} {bpp : Nat} {field : Level → Byte}
    {s : State} {g : Grid} {q : QGrid} (count : s.levelCount = 2 ∨ s.levelCount = 4)
    (inDomain : domain s.levelCount = true) (format : s.levelCount = 2 ^ bpp) (hg : s.mem.pix = some g)
    (hq : q = { w := g.w, h := g.h, levels := s.cfg.levels, cells := levels g }) :
    (quantBody domain levels s >>= packBody bpp field) =
      .ok (s.withMem { s.mem with qnt := some q, buf := some (q.packed bpp field) }) := by
  subst hq
  rw [quantBody_complete count inDomain hg, ok_bind]
  exact packBody_complete rfl format

/-- From a valid PIX the stages of the mode complete; PIX itself they leave as it is or adjusted. -/
theorem convertTail_complete {s : State} {p : Grid} (count : s.levelCount = 2 ∨ s.levelCount = 4)
    (hp : s.mem.pix = some p) :
    ∃ pix, convertTail s = .ok (s.withMem { s.mem with
      pix := pix, qnt := some (convertedGrid s.cfg p), buf := some (convertedBuf s.cfg p) }) := by
  unfold convertTail
  obtain two | four := count
  · rw [if_pos two, convertedBuf_of_two p two]
    by_cases dithered : s.cfg.dither = 1#1
    · refine ⟨some (p.adjusted s.cfg.contrast s.cfg.bright), ?_⟩
      rw [if_pos (by simpa [State.ditherOn] using dithered), adjustBody_complete hp, ok_bind]
      refine quantThenPack_complete (.inl two) ?_ two rfl ?_
      · simpa using .inl two
      · rw [convertedGrid, convertedLevels_of_dithered p two dithered, ← two]
        rfl
    · refine ⟨some p, ?_⟩
      rw [if_neg (by simpa [State.ditherOn] using dithered), ← hp]
      refine quantThenPack_complete (.inl two) (by simp [two]) two hp ?_
      rw [convertedGrid, convertedLevels_of_undithered p two dithered]
  · rw [if_neg (by omega), convertedBuf_of_four p four]
    refine ⟨some p, ?_⟩
    rw [← hp]
    refine quantThenPack_complete (.inr four) (by simp [four]) four hp ?_
    rw [convertedGrid, convertedLevels_of_four p four]

/-! ### How CONVERT ends (R235 to R237) -/

theorem exec_convert (s : State) : exec .convert s = finish .conversion (convertBody s) s := rfl

/-- The level count is looked at before anything else. -/
theorem exec_convert_unsupported {s : State} (count : ¬(s.levelCount = 2 ∨ s.levelCount = 4)) :
    exec .convert s = .next (s.raise .unsupportedLevels .conversion) := by
  rw [exec_convert, convertBody, convertStages, if_pos count]
  rfl

section
variable {s : State} (count : s.levelCount = 2 ∨ s.levelCount = 4)
include count

/-- After the level count only NORMALIZE can raise. -/
theorem exec_convert_of_normalize_error {e : Err} (h : normalizeBody s = .error e) :
    exec .convert s = .next (s.raise e .conversion) := by
  rw [exec_convert, convertBody, convertStages, if_neg (not_not.2 count), h]
  rfl

theorem exec_convert_of_normalized {n : Image}
    (h : normalizeBody s = .ok (s.withMem { s.mem with nrm := some n })) :
    exec .convert s = .next { s with
      mem := { s.mem with
        nrm := none, pix := none, qnt := none, buf := some (convertedBuf s.cfg (n.toGrayWith luma)) }
      err := .ok } := by
  obtain ⟨pix, tail⟩ := convertTail_complete
    (s := s.withMem { s.mem with nrm := some n, pix := some (n.toGrayWith luma) }) count rfl
  have gray : toGrayBody (s.withMem { s.mem with nrm := some n }) = .ok _ := toGrayBody_complete rfl
  rw [exec_convert, convertBody, convertStages, if_neg (not_not.2 count), h, ok_bind, gray, ok_bind]
  exact congrArg (fun r => finish .conversion (r >>= fun t => .ok (t.withMem t.mem.withoutIntermediates)) s) tail

/-- With a usable source and target CONVERT completes. -/
theorem exec_convert_of_usable {g : Image} (hw : s.cfg.tw ≠ 0#16) (hh : s.cfg.th ≠ 0#16) (hs : s.mem.src = some g)
    (usable : UsableSource g) :
    exec .convert s = .next { s with
      mem := { s.mem with
        nrm := none, pix := none, qnt := none
        buf := some (convertedBuf s.cfg ((g.coverFit s.cfg.tw s.cfg.th).toGrayWith luma)) }
      err := .ok } := by
  obtain ⟨gw, gh, gch⟩ := usable
  exact exec_convert_of_normalized count
    (normalizeBody_complete (dim_toNat_ne_zero hw) (dim_toNat_ne_zero hh) hs gw gh gch)

end

/-- CONVERT ends with a buffer in BUF and ERR 0, or with an error. -/
theorem exec_convert_cases (s : State) :
    (∃ b, exec .convert s = .next { s with
      mem := { s.mem with nrm := none, pix := none, qnt := none, buf := some b }, err := .ok }) ∨
    (∃ e, exec .convert s = .next (s.raise e .conversion)) := by
  by_cases count : s.levelCount = 2 ∨ s.levelCount = 4
  · cases h : normalizeBody s with
    | ok u =>
      obtain ⟨-, -, g, -, -, -, -, rfl⟩ := normalizeBody_ok h
      exact .inl ⟨_, exec_convert_of_normalized count h⟩
    | error e => exact .inr ⟨e, exec_convert_of_normalize_error count h⟩
  · exact .inr ⟨_, exec_convert_unsupported count⟩

/-- Settles O55: both ways CONVERT ends invalidate the intermediates and keep SRC. -/
theorem convertLeavesNoIntermediate : Obligations.ConvertLeavesNoIntermediate := by
  intro s
  obtain ⟨b, completes⟩ | ⟨e, raises⟩ := exec_convert_cases s
  · exact ⟨_, completes, rfl, rfl, rfl, rfl⟩
  · exact ⟨_, raises, rfl, rfl, rfl, rfl⟩

/-- Settles O56: the check comes before the first stage. -/
theorem convertChecksTheLevelCountFirst : Obligations.ConvertChecksTheLevelCountFirst := by
  intro s not2 not4
  exact exec_convert_unsupported (by simpa [levelCount_eq_iff] using ⟨not2, not4⟩)

/-- Settles O54: the size of BUF is PIX's, which is NRM's, which is the target; its format is the packer's. -/
theorem convertCompletesWithAPackedBuffer : Obligations.ConvertCompletesWithAPackedBuffer := by
  intro s g n hn levels hw hh hs usable
  have count : s.levelCount = n := (levelCount_eq_iff (by omega)).2 levels
  refine ⟨_, exec_convert_of_usable (by rwa [count]) hw hh hs usable, ?_⟩
  obtain rfl | rfl := hn
  · rw [convertedBuf_of_two _ count]
    exact ⟨rfl, rfl, rfl, (packed_length ..).trans (expectedBytes_one ..)⟩
  · rw [convertedBuf_of_four _ count]
    exact ⟨rfl, rfl, rfl, (packed_length ..).trans (expectedBytes_two ..)⟩

/-! ### The registers a mode reads (R238) -/

/-- Of the configuration NORMALIZE reads the target size alone. -/
theorem normalizeBody_sameEnd {s s' : State} (src : s.mem.src = s'.mem.src) (tw : s.cfg.tw = s'.cfg.tw)
    (th : s.cfg.th = s'.cfg.th) :
    SameEnd (fun t t' => t.mem.nrm = t'.mem.nrm) (normalizeBody s) (normalizeBody s') := by
  simp only [normalizeBody, State.targetW, State.targetH, src, tw, th]
  split_ifs
  · rfl
  · cases s'.mem.src with
    | none => rfl
    | some g =>
      dsimp only
      split_ifs <;> rfl

/-- In each mode CONVERT can run in, the quantizer and ADJUST read only the registers that the mode names. -/
theorem convertedLevels_congr {c c' : ConfigRegs} (levels : c.levels = c'.levels)
    (mode : c.levels = 4#8 ∨
      (c.levels = 2#8 ∧ c.dither = 0#1 ∧ c'.dither = 0#1 ∧ c.thresh = c'.thresh) ∨
      (c.levels = 2#8 ∧ c.dither = 1#1 ∧ c'.dither = 1#1 ∧ c.bright = c'.bright ∧ c.contrast = c'.contrast))
    (p : Grid) : convertedLevels c p = convertedLevels c' p := by
  obtain four | ⟨two, off, off', thresh⟩ | ⟨two, on, on', bright, contrast⟩ := mode
  · simp [convertedLevels, ← levels, four]
  · simp [convertedLevels, ← levels, two, off, off', thresh]
  · simp [convertedLevels, ← levels, two, on, on', bright, contrast]

/-- Settles O59: NRM reads the target size alone, and BUF is made of NRM with what the mode reads. -/
theorem convertIgnoresTheRegistersItsModeDoesNotRead : Obligations.ConvertIgnoresTheRegistersItsModeDoesNotRead := by
  intro s s' src tw th levels mode
  have count : s.levelCount = 2 ∨ s.levelCount = 4 := by
    simp only [levelCount_eq_iff (by decide : 2 < 256), levelCount_eq_iff (by decide : 4 < 256)]
    exact mode.symm.imp_left (Or.elim · And.left And.left)
  have count' : s'.levelCount = 2 ∨ s'.levelCount = 4 := by rwa [State.levelCount, ← levels]
  have runs := normalizeBody_sameEnd src tw th
  cases h : normalizeBody s <;> cases h' : normalizeBody s' <;> rw [h, h'] at runs
  case ok.ok u u' =>
    obtain ⟨-, -, g, -, -, -, -, rfl⟩ := normalizeBody_ok h
    obtain ⟨-, -, g', -, -, -, -, rfl⟩ := normalizeBody_ok h'
    have buf := convertedBuf_congr ((g.coverFit s.cfg.tw s.cfg.th).toGrayWith luma) levels
      (convertedLevels_congr levels mode _)
    refine ⟨_, _, exec_convert_of_normalized count h, exec_convert_of_normalized count' h', ?_, rfl⟩
    rw [← Option.some.inj runs]
    exact congrArg some buf
  case error.error e e' =>
    exact ⟨_, _, exec_convert_of_normalize_error count h, exec_convert_of_normalize_error count' h', rfl, runs⟩
  case ok.error => exact runs.elim
  case error.ok => exact runs.elim

/-! ### A constant image through the stages (R116, R132, R154, R183) -/

/-- Sample (x, y, c) of an image in form is an element of its data. -/
theorem sample_mem_data {g : Image} (wf : g.sourceWf = true) {x y c : Nat} (hx : x < g.w.toNat) (hy : y < g.h.toNat)
    (hc : c < g.ch.toNat) : g.sample x y c ∈ g.data := by
  have inside := (sample_index_lt hx hy hc).trans_eq (length_of_sourceWf wf).symm
  rw [Image.sample, List.getD_eq_getElem _ _ inside]
  exact List.getElem_mem inside

/-- P4 for a whole image: every sample of NRM is the source's one value. -/
theorem coverFit_sample_of_constant {g : Image} {v : Byte} (wf : g.sourceWf = true) (usable : UsableSource g)
    (constant : ∀ a ∈ g.data, a = v) {tw th : Dim} {x y c : Nat} (hx : x < tw.toNat) (hy : y < th.toNat)
    (hc : c < g.ch.toNat) : (g.coverFit tw th).sample x y c = v := by
  have channel : g.constantChannel c = some v := constantChannel_of_forall_sample wf usable fun _ _ hx hy =>
    constant _ (sample_mem_data wf hx hy hc)
  rw [coverFit_sample g _ _ hx hy hc]
  exact resample_of_constantChannel hc channel _ _ _ _

/-- A gray pixel of one or three channels keeps its value in PIX (R131, R132). -/
theorem toGrayWith_luma_cell_of_gray {n : Image} {v : Byte} (ch : n.ch = 1#8 ∨ n.ch = 3#8) {x y : Nat}
    (hx : x < n.w.toNat) (hy : y < n.h.toNat) (gray : ∀ c < n.ch.toNat, n.sample x y c = v) :
    (n.toGrayWith luma).cell x y = v := by
  obtain one | three := ch
  · rw [toGrayWith_cell_gray luma one hx hy, gray 0 (by rw [one]; decide)]
  · rw [toGrayWith_cell_colour luma (by rw [three]; decide) hx hy, gray 0 (by rw [three]; decide),
      gray 1 (by rw [three]; decide), gray 2 (by rw [three]; decide), luma_gray]

/-- A byte of PACK.2 whose four pixels exist and have one level. -/
theorem packByte_two_toNat_of_constant {w j : Nat} {row : Nat → Level} {q : Level} (full : 4 * j + 4 ≤ w)
    (constant : ∀ x < w, row x = q) : (packByte 2 levelField w row j).toNat = q.toNat * 0x55 := by
  have field (k : Nat) (hk : k < 4) : (packByte 2 levelField w row j).toNat / 2 ^ (6 - 2 * k) % 4 = q.toNat := by
    have inside : pixelsPerByte 2 * j + k < w := by rw [pixelsPerByte_two]; omega
    rw [← fieldAt_two_toNat _ hk, fieldAt_packByte (.inr rfl) levelField_small _ _ _ hk, if_pos inside,
      constant _ inside, levelField_toNat]
  generalize packByte 2 levelField w row j = b at field ⊢
  have f0 : b.toNat / 64 % 4 = q.toNat := field 0 (by decide)
  have f1 : b.toNat / 16 % 4 = q.toNat := field 1 (by decide)
  have f2 : b.toNat / 4 % 4 = q.toNat := field 2 (by decide)
  have f3 : b.toNat % 4 = q.toNat := by simpa using field 3 (by decide)
  have top : b.toNat / 64 = q.toNat := by omega
  have next : b.toNat / 16 = 4 * q.toNat + q.toNat := by omega
  omega

theorem mem_packed_bytes {bpp : Nat} {field : Level → Byte} {g : QGrid} {a : Byte}
    (ha : a ∈ (g.packed bpp field).bytes) :
    ∃ j y, j < rowBytes bpp g.w.toNat ∧ y < g.h.toNat ∧
      a = packByte bpp field g.w.toNat (fun x => g.cell x y) j := mem_gridOf ha

/-- A constant grid with a row size of whole bytes, packed by PACK.2. -/
theorem packed_two_toNat_of_constant {g : QGrid} {q : Level} (whole : g.w.toNat % 4 = 0)
    (constant : ∀ x y, x < g.w.toNat → y < g.h.toNat → g.cell x y = q) :
    ∀ a ∈ (g.packed 2 levelField).bytes, a.toNat = q.toNat * 0x55 := by
  intro a ha
  obtain ⟨j, y, hj, hy, rfl⟩ := mem_packed_bytes ha
  rw [rowBytes_two] at hj
  exact packByte_two_toNat_of_constant (by omega) fun x hx => constant x y hx hy

/-- Settles O60: RESAMPLE and LUMA keep the one value, so every byte holds the level of its bucket four times. -/
theorem constantSourceConvertsToARepeatedByte : Obligations.ConstantSourceConvertsToARepeatedByte := by
  intro s g v inv levels hw hh whole hs usable constant
  obtain ⟨memWf, -⟩ := inv
  obtain ⟨srcWf, -⟩ := (memory_wf_iff _).1 memWf
  have ⟨_, _, ch⟩ := usable
  have four : s.levelCount = 4 := (levelCount_eq_iff (by decide)).2 levels
  have cells (x y : Nat) (hx : x < s.cfg.tw.toNat) (hy : y < s.cfg.th.toNat) :
      (convertedGrid s.cfg ((g.coverFit s.cfg.tw s.cfg.th).toGrayWith luma)).cell x y = uniformLevel 4 v := by
    have pix := toGrayWith_luma_cell_of_gray (n := g.coverFit s.cfg.tw s.cfg.th) ch hx hy fun _ hc =>
      coverFit_sample_of_constant (srcWf g hs) usable constant hx hy hc
    rw [← pix]
    exact convertedGrid_cell_of_four _ four hx hy
  refine ⟨_, _, exec_convert_of_usable (.inr four) hw hh hs usable, rfl, rfl, ?_, fun a ha => ?_⟩
  · have row : (s.cfg.tw.toNat + 3) / 4 = s.cfg.tw.toNat / 4 := by omega
    rw [convertedBuf_of_four _ four, ← row]
    exact (packed_length ..).trans (expectedBytes_two ..)
  · rw [convertedBuf_of_four _ four] at ha
    have level := uniformLevel_toNat v
    rw [packed_two_toNat_of_constant whole cells a ha, level]
    omega

end Sys2Proof.Machine
end

section
/-! SUPPORT and the statements about errors and idling (spec/60_exceptions.md R250 to R264): what taking an error makes
invalid, and the ways a body raises ConfigError, SequenceError and ImageLoadError. -/

namespace Sys2Proof.Machine

open Sys2Proof.Claims

/-! ### Taking an error (R262) -/

theorem raise_invalid {d : ErrDest} {p : Plane} (hp : d.invalidates p = true) (e : Err) (s : State) :
    (s.raise e d).mem.valid p = false := by
  cases d <;> simp only [ErrDest.invalidates, Bool.or_eq_true, decide_eq_true_eq] at hp
  case conversion => obtain ((rfl | rfl) | rfl) | rfl := hp <;> rfl
  case vbpp => exact absurd hp (by decide)
  case nothing => exact absurd hp (by decide)
  all_goals subst hp; rfl

/-- Settles O22: with ERR not 0 the command's body has raised, and what taking the error does is fixed by the destination. -/
theorem raisingInvalidatesTheDestinationOnly : Obligations.RaisingInvalidatesTheDestinationOnly := by
  intro i s t hi run err
  rw [exec_eq_finish hi] at run
  obtain ⟨u, -, rfl⟩ | ⟨e, raised, rfl⟩ := finish_cases run
  · exact absurd rfl err
  have dest (p : Plane) : (commandDest i).invalidates p = writesPlane i p :=
    commandDest_invalidates (clear_ne_of_error raised) p
  refine ⟨fun p hp => raise_invalid ((dest p).trans hp) e s, fun p hp => raise_samePlane ((dest p).trans hp) e s,
    by simp, by simp, by simp, by simp, ?_, by simp, by simp, by simp⟩
  simp only [raise_vbpp, commandDest_eq_vbpp_iff]
  rfl

/-- A body that raises ends its command from the state it was issued in (R263). -/
theorem exec_of_body_error {i : Instr} (hi : i ≠ .nop) {s : State} {e : Err} (h : commandBody i s = .error e) :
    exec i s = .next (s.raise e (commandDest i)) := by
  rw [exec_eq_finish hi, h, finish_error]

/-- Settles O12: code by code, and every outcome is one of the seven. -/
theorem errorCodesAreThoseOfTheTable : Obligations.ErrorCodesAreThoseOfTheTable :=
  ⟨rfl, rfl, rfl, rfl, rfl, rfl, rfl, fun e => by cases e <;> decide⟩

/-! ### Illegal words and idling (R258, R275) -/

theorem runWord_of_illegal {c : CmdWord} (hc : ∀ i, c ≠ encode i) (s : State) :
    runWord c s = .next { s with err := .illegalCommand } := by
  unfold runWord
  split
  next i hi => exact absurd ((decode_eq_ok_iff c i).1 hi) (hc i)
  next => rfl

/-- Settles O4: the write to CMD runs its low 8 bits, which the decoder rejects. -/
theorem illegalWordTakesIllegalCommand : Obligations.IllegalWordTakesIllegalCommand := by
  intro s v rest hs illegal
  refine ⟨?_, rfl⟩
  rw [step_eq_hostMove hs]
  exact runWord_of_illegal illegal (s.withPending rest)

/-- Settles O6: with no move to come, a step is idle. -/
theorem idleBlockKeepsAllState : Obligations.IdleBlockKeepsAllState := by
  intro s hs
  simp only [step, issueNext, hs]

/-! ### A zero target size (R253) -/

theorem levelCount_supported {s : State} (h : s.cfg.levels = 2#8 ∨ s.cfg.levels = 4#8) :
    s.levelCount = 2 ∨ s.levelCount = 4 :=
  h.imp (levelCount_eq_iff (by decide)).2 (levelCount_eq_iff (by decide)).2

section
variable {s : State} (zero : s.cfg.tw = 0#16 ∨ s.cfg.th = 0#16)
include zero

theorem target_zero : s.targetW = 0 ∨ s.targetH = 0 := zero.imp (congrArg BitVec.toNat) (congrArg BitVec.toNat)

theorem normalizeBody_config : normalizeBody s = .error .config := if_pos (target_zero zero)

theorem unpackBody_config (bpp : Nat) (f : Byte → Byte) (p : Config.ShortPolicy) :
    unpackBody bpp f p s = .error .config := if_pos (target_zero zero)

end

/-- Settles O26: the target size is the first check of each body, in CONVERT the first after the level count. -/
theorem zeroTargetSizeRaisesConfigError : Obligations.ZeroTargetSizeRaisesConfigError := by
  refine ⟨rfl, fun s zero => ⟨?_, ?_, ?_, exec_detect_config zero, fun levels => ?_⟩⟩
  · exact exec_of_body_error (by decide) (normalizeBody_config zero)
  · exact exec_of_body_error (by decide) (unpackBody_config zero 1 intensity1 Config.shortPolicy)
  · exact exec_of_body_error (by decide) (unpackBody_config zero 2 intensity2 Config.shortPolicy)
  · exact exec_convert_of_normalize_error (levelCount_supported levels) (normalizeBody_config zero)

/-! ### A missing source plane (R252) -/

theorem target_nonzero {s : State} (hw : s.cfg.tw ≠ 0#16) (hh : s.cfg.th ≠ 0#16) :
    ¬(s.targetW = 0 ∨ s.targetH = 0) := not_or.2 ⟨dim_toNat_ne_zero hw, dim_toNat_ne_zero hh⟩

theorem toGrayBody_sequence {s : State} (h : s.mem.nrm = none) : toGrayBody s = .error .sequence := by
  simp only [toGrayBody, h]

theorem adjustBody_sequence {s : State} (h : s.mem.pix = none) : adjustBody s = .error .sequence := by
  simp only [adjustBody, h]

theorem packBody_sequence (bpp : Nat) (field : Level → Byte) {s : State} (h : s.mem.qnt = none) :
    packBody bpp field s = .error .sequence := by
  simp only [packBody, h]

theorem unpackBody_sequence (bpp : Nat) (f : Byte → Byte) (p : Config.ShortPolicy) {s : State}
    (hw : s.cfg.tw ≠ 0#16) (hh : s.cfg.th ≠ 0#16) (h : s.mem.vbuf = none) :
    unpackBody bpp f p s = .error .sequence := by
  simp only [unpackBody, if_neg (target_nonzero hw hh), h]

theorem normalizeBody_error_ne_sequence {s : State} {e : Err} (h : normalizeBody s = .error e) : e ≠ .sequence := by
  obtain ⟨rfl, -⟩ | ⟨rfl, -⟩ := normalizeBody_error h <;> decide

theorem exec_normalize_err_ne_sequence {s t : State} (h : exec .normalize s = .next t) : t.err ≠ .sequence := by
  rw [exec_eq_finish (by decide)] at h
  obtain ⟨u, -, rfl⟩ | ⟨e, raised, rfl⟩ := finish_cases h
  · simp
  · exact normalizeBody_error_ne_sequence raised

/-- Every stage of CONVERT after NORMALIZE finds the plane that the stage before it has written. -/
theorem exec_convert_err_ne_sequence {s t : State} (h : exec .convert s = .next t) : t.err ≠ .sequence := by
  by_cases count : s.levelCount = 2 ∨ s.levelCount = 4
  · cases normalized : normalizeBody s with
    | ok u =>
      obtain ⟨-, -, g, -, -, -, -, rfl⟩ := normalizeBody_ok normalized
      cases (exec_convert_of_normalized count normalized).symm.trans h
      simp
    | error e =>
      cases (exec_convert_of_normalize_error count normalized).symm.trans h
      exact normalizeBody_error_ne_sequence normalized
  · cases (exec_convert_unsupported count).symm.trans h
    simp

/-- Settles O25: each body ends at its look for the plane, and NORMALIZE and CONVERT give a missing SRC another error. -/
theorem missingSourcePlaneRaisesSequenceError : Obligations.MissingSourcePlaneRaisesSequenceError := by
  refine ⟨rfl, fun s => ⟨fun _ t run => ?_, fun hn => ?_, fun hp => ?_, fun hp levels => ?_, fun hp levels => ?_,
    fun hp levels => ?_, fun hq => ⟨?_, ?_⟩, fun hv hw hh => ⟨?_, ?_, exec_detect_sequence hw hh hv⟩⟩⟩
  · exact run.elim exec_normalize_err_ne_sequence exec_convert_err_ne_sequence
  · exact exec_of_body_error (by decide) (toGrayBody_sequence hn)
  · exact exec_of_body_error (by decide) (adjustBody_sequence hp)
  · have two : s.levelCount = 2 := (levelCount_eq_iff (by decide)).2 levels
    exact finish_quantBody_sequence (.inl two) (by simp [two]) hp
  · have four : s.levelCount = 4 := (levelCount_eq_iff (by decide)).2 levels
    exact finish_quantBody_sequence (.inr four) (by simp [four]) hp
  · have count := levelCount_supported levels
    exact finish_quantBody_sequence count (by simpa using count) hp
  · exact exec_of_body_error (by decide) (packBody_sequence 1 blackBit hq)
  · exact exec_of_body_error (by decide) (packBody_sequence 2 levelField hq)
  · exact exec_of_body_error (by decide) (unpackBody_sequence 1 intensity1 Config.shortPolicy hw hh hv)
  · exact exec_of_body_error (by decide) (unpackBody_sequence 2 intensity2 Config.shortPolicy hw hh hv)

/-! ### An unusable source (R112, R256) -/

theorem normalizeBody_imageLoad {s : State} (hw : s.cfg.tw ≠ 0#16) (hh : s.cfg.th ≠ 0#16)
    (unusable : ∀ g, s.mem.src = some g → ¬UsableSource g) : normalizeBody s = .error .imageLoad := by
  cases h : normalizeBody s with
  | ok t =>
    obtain ⟨-, -, g, hg, gw, gh, ch, -⟩ := normalizeBody_ok h
    exact absurd ⟨gw, gh, ch⟩ (unusable g hg)
  | error e =>
    obtain ⟨-, zero⟩ | ⟨rfl, -⟩ := normalizeBody_error h
    · exact absurd zero (target_nonzero hw hh)
    · rfl

theorem not_usableSource {g : Image} (h : g.w = 0#16 ∨ g.h = 0#16 ∨ (g.ch ≠ 1#8 ∧ g.ch ≠ 3#8)) :
    ¬UsableSource g := by
  rintro ⟨gw, gh, ch⟩
  obtain zero | zero | ⟨not1, not3⟩ := h
  · exact gw (congrArg BitVec.toNat zero)
  · exact gh (congrArg BitVec.toNat zero)
  · exact ch.elim not1 not3

/-- Settles O32: past the target size NORMALIZE completes exactly on a usable source, and CONVERT ends with its error. -/
theorem unusableSourceRaisesImageLoadError : Obligations.UnusableSourceRaisesImageLoadError := by
  refine ⟨rfl, fun s hw hh source => ?_⟩
  have body : normalizeBody s = .error .imageLoad := normalizeBody_imageLoad hw hh fun g hg => by
    obtain missing | ⟨g', hg', reason⟩ := source
    · cases missing.symm.trans hg
    · cases hg'.symm.trans hg
      exact not_usableSource reason
  exact ⟨exec_of_body_error (by decide) body,
    fun levels => exec_convert_of_normalize_error (levelCount_supported levels) body⟩

end Sys2Proof.Machine
end

section
/-! SUPPORT. What every command and the reset event always do (spec/70_reset_and_hazards.md): O7 and O14. -/

namespace Sys2Proof.Machine

open Sys2Proof.Claims

/-! ### Completion (R310) -/

/-- Settles O7: NOP answers the state it is issued in, and every other command ends its body with `finish`. -/
theorem everyCommandCompletes : Obligations.EveryCommandCompletes := by
  intro i s
  by_cases hi : i = .nop
  · subst hi
    exact ⟨s, exec_nop s⟩
  · rw [exec_eq_finish hi]
    exact finish_next (commandDest i) (commandBody i s) s

/-! ### The reset event (R55, R290) -/

theorem step_reset {s : State} {rest : List HostMove} (hs : s.pending = .reset :: rest) :
    step s = .next (s.withPending rest).resetEvent := step_eq_hostMove hs

theorem memory_empty_invalid (p : Plane) : Memory.empty.valid p = false := by
  cases p <;> rfl

theorem resetEvent_statusWord (s : State) : s.resetEvent.statusWord = 0#32 := by
  simp only [State.statusWord, State.statusBits, State.resetEvent_mem, State.resetEvent_err, State.resetEvent_short,
    State.resetEvent_long]
  decide

/-- Settles O14: the configuration left open is the one the event draws, and STATUS shows no valid plane and no error. -/
theorem resetEventLeavesTheStateOfTheResetTable : Obligations.ResetEventLeavesTheStateOfTheResetTable := by
  intro s rest hs
  exact ⟨drawnConfig s.resets, (s.withPending rest).resetEvent, step_reset hs, rfl, resetEvent_statusWord _,
    fun p i => element_of_invalid (memory_empty_invalid p) i⟩

end Sys2Proof.Machine
end
